-- ==== Sys2Proof/Word.lean ====
section
/-! DEFINITION. The word types of the block (00_scope.md R10, R11): bytes, 16-bit fields and the 64-bit
command word. Everything the spec names is unsigned. The time types stand in Config.lean beside their widths. -/

namespace Sys2Proof

/-- A wire byte, a unit address, a function code or an exception code (00_scope.md R10). -/
abbrev Byte := BitVec 8

/-- A 16-bit field: an address, a quantity, a register value or a CRC (00_scope.md R10). -/
abbrev U16 := BitVec 16

/-- A command word W (30_encoding.md R110). -/
abbrev Word := BitVec 64

end Sys2Proof
end

