-- ==== Sys2Proof/Config.lean ====
section
/-! DEFINITION. The implementation parameters of 00_scope.md R9, each a named constant with the value this hardware
takes. There is no free value: every point the source leaves open is decided by the spec (92_eei_decisions.md,
93_implementation_defined.md; DEDUCED, log entry 12). -/

namespace Sys2Proof.Config

/-- TIME_W (R9): the width in bits of the time base `now`. -/
abbrev timeW : Nat := 32

/-- TO_W (R9): the width in bits of CHAR_TO, FRAME_TO, RESP_TO, BAUD, T_START and T_LAST. T_START and T_LAST take the
value of `now` whole (42_framer.md R205, 43_receive.md R234), so TO_W and TIME_W agree: were one corrected alone, the
model would not elaborate (DEDUCED, log entry 12). -/
abbrev toW : Nat := 32

/-- DATA_CAP (R9): the largest ADU payload, in bytes. -/
def dataCap : Nat := 252

/-- FRAME_CAP (R9): the frame buffer, in bytes: payload, unit, function code and two CRC bytes. -/
def frameCap : Nat := dataCap + 4

/-- BAUD_SPLIT (R9): the last baud rate of the proportional regime. -/
def baudSplit : Nat := 19200

/-- K_CHAR_LO (R9). -/
def kCharLo : Nat := 2500000

/-- K_FRAME_LO (R9). -/
def kFrameLo : Nat := 4500000

/-- K_HI (R9). -/
def kHi : Nat := 1000000

/-- CHAR_FLOOR (R9), microseconds. -/
def charFloor : Nat := 750

/-- FRAME_FLOOR (R9), microseconds. -/
def frameFloor : Nat := 1750

/-- CRC_INIT (R9). -/
def crcInit : U16 := 0xFFFF#16

/-- CRC_POLY (R9), the reflected polynomial. -/
def crcPoly : U16 := 0xA001#16

/-- MAX_UNIT (R9): the largest unicast unit address. -/
def maxUnit : Nat := 247

/-- MAX_READ_BITS (R9). -/
def maxReadBits : Nat := 2000

/-- MAX_READ_REGS (R9). -/
def maxReadRegs : Nat := 125

/-- MAX_WRITE_COILS (R9). -/
def maxWriteCoils : Nat := 1968

/-- MAX_WRITE_REGS (R9). -/
def maxWriteRegs : Nat := 123

/-- COIL_ON (R9): the wire value of coil "on". -/
def coilOn : U16 := 0xFF00#16

/-- COIL_OFF (R9): the wire value of coil "off". -/
def coilOff : U16 := 0x0000#16

/-- EXC_FLAG (R9): added to the function code in an exception response. -/
def excFlag : Byte := 0x80#8

/-- RESP_TO_RESET (R9), microseconds. -/
def respToReset : BitVec toW := BitVec.ofNat toW 100000

/-- OUT_BITS_N (R9). -/
def outBitsN : Nat := maxReadBits

/-- OUT_REGS_N (R9). -/
def outRegsN : Nat := maxReadRegs

/-- What a byte arriving in the confirm window does (CONFIRM_POLICY of R9). -/
inductive ConfirmPolicy where
  /-- The byte is appended and accumulation resumes (43_receive.md R235). -/
  | append
  /-- The byte ends the receive with FRAME_ERROR (43_receive.md R236). -/
  | reject
deriving DecidableEq, Repr

/-- CONFIRM_POLICY (R9): this hardware appends (DEDUCED, log entry 11). -/
def confirmPolicy : ConfirmPolicy := .append

end Sys2Proof.Config

namespace Sys2Proof

/-- A value of the time base (41_timing.md R187). -/
abbrev Time := BitVec Config.timeW

/-- A time stamp or threshold in microseconds, or a baud rate (R9). -/
abbrev TimeReg := BitVec Config.toW

end Sys2Proof
end

