-- ==== Sys2Proof/Syntax.lean ====
section
/-! DEFINITION. The twelve commands (30_encoding.md R111) as syntax, and the command record the command port carries
(R110). -/

namespace Sys2Proof

/-- The write-data operand WDATA of a command (30_encoding.md R110). -/
inductive WData where
  | none
  | bits (s : List Bool)
  | regs (s : List U16)
deriving DecidableEq, Repr

/-- A command as it is presented on the command port: the word W and the operand WDATA (30_encoding.md R110). -/
structure Command where
  word  : Word
  wdata : WData
deriving DecidableEq, Repr

/-- The operation field of a command: the twelve rows of 30_encoding.md R111. -/
inductive Op where
  | readCoils | readDi | readHr | readIr
  | writeCoil | writeReg | writeCoils | writeRegs
  | cfgLink | cfgRespTo | cfgTxen | clearExc
deriving DecidableEq, Repr

/-- A command with its fields named, one constructor per row of the opcode table. The fields are those of the
formats R112 to R119 of 30_encoding.md, in that order; `cap` is the CAP field and `data` the WDATA sequence. -/
inductive Instr where
  /-- READ_COILS (44_reads.md R280). -/
  | readCoils (unit : Byte) (addr qty cap : U16)
  /-- READ_DI (44_reads.md R281). -/
  | readDi (unit : Byte) (addr qty cap : U16)
  /-- READ_HR (44_reads.md R282). -/
  | readHr (unit : Byte) (addr qty cap : U16)
  /-- READ_IR (44_reads.md R283). -/
  | readIr (unit : Byte) (addr qty cap : U16)
  /-- WRITE_COIL (45_single_writes.md R304). -/
  | writeCoil (unit : Byte) (addr : U16) (coil : Bool)
  /-- WRITE_REG (45_single_writes.md R305). -/
  | writeReg (unit : Byte) (addr value : U16)
  /-- WRITE_COILS (46_multiple_writes.md R326). -/
  | writeCoils (unit : Byte) (addr qty cap : U16) (data : List Bool)
  /-- WRITE_REGS (46_multiple_writes.md R327). -/
  | writeRegs (unit : Byte) (addr qty cap : U16) (data : List U16)
  /-- CFG_LINK (47_config.md R340). -/
  | cfgLink (baud : TimeReg) (parity : BitVec 2) (stop2 : Bool)
  /-- CFG_RESP_TO (47_config.md R341). -/
  | cfgRespTo (resp : TimeReg)
  /-- CFG_TXEN (47_config.md R342). -/
  | cfgTxen (en : Bool)
  /-- CLEAR_EXC (47_config.md R343). -/
  | clearExc
deriving DecidableEq, Repr

/-- The operation a command names. -/
def Instr.op : Instr → Op
  | .readCoils _ _ _ _ => .readCoils
  | .readDi _ _ _ _ => .readDi
  | .readHr _ _ _ _ => .readHr
  | .readIr _ _ _ _ => .readIr
  | .writeCoil _ _ _ => .writeCoil
  | .writeReg _ _ _ => .writeReg
  | .writeCoils _ _ _ _ _ => .writeCoils
  | .writeRegs _ _ _ _ _ => .writeRegs
  | .cfgLink _ _ _ => .cfgLink
  | .cfgRespTo _ => .cfgRespTo
  | .cfgTxen _ => .cfgTxen
  | .clearExc => .clearExc

/-- The eight exchange commands; the other four configure the block (30_encoding.md R111). -/
def Op.isExchange : Op → Bool
  | .readCoils | .readDi | .readHr | .readIr => true
  | .writeCoil | .writeReg | .writeCoils | .writeRegs => true
  | .cfgLink | .cfgRespTo | .cfgTxen | .clearExc => false

end Sys2Proof
end

