-- ==== Sys2Proof/Machine/State.lean ====
section
/-! DEFINITION. The state of the block: every register of 10_state.md R30, the port records of 20_memory.md R92, and
the reasons a step can stop. A register whose type is an `Option` is one the spec itself gives the value `none`
(00_scope.md R13, 70_reset_and_hazards.md R400; DEDUCED, log entry 2). -/

namespace Sys2Proof.Machine

/-- An indexed store: index and value pairs in the canonical form of `Cells.wf` (Machine/Ops.lean). An index with no
pair holds `none`, which is what every element holds at reset (10_state.md R45, R49, R50; DEDUCED, log entry 15). -/
abbrev Cells (α : Type) := List (Nat × α)

/-- The byte memory of the block, the frame buffer BUF (20_memory.md R80 (a)): a list of `Host.Cell`. -/
abbrev Memory := Cells Byte

/-- The control state FSM (10_state.md R40). The values 6 and 7 are never held and have no constructor
(DESIGN CHOICE, log entry 9). -/
inductive Fsm where
  | idle | txWrite | txFlush | await | accum | confirm
deriving DecidableEq, Repr

/-- The outcome codes of STATUS (30_encoding.md R132), in the order of their numbers (DESIGN CHOICE, log
entry 9). -/
inductive Status where
  | success
  | invalidId | invalidQuantity | invalidBuffer
  | responseTimeout | frameError | crcError | unknownCommError
  | unexpectedId | unexpectedFunctionCode | unexpectedLength | unexpectedByteCount
  | unexpectedAddress | unexpectedValue | unexpectedQuantity
  | exceptionResponse
deriving DecidableEq, Repr

/-- The request latch REQ (10_state.md R44). A field that the accepted command does not use holds `none`. -/
structure Req where
  op   : Option Byte
  unit : Option Byte
  addr : Option U16
  qty  : Option U16
  val  : Option U16
deriving DecidableEq, Repr

/-- The input record I of one poll (20_memory.md R92). -/
structure Input where
  now    : Time
  rx     : Option Byte
  txDone : Bool
  cmd    : Option Command
deriving DecidableEq, Repr

/-- What the environment does to the block next: one poll with its input record (00_scope.md R16), or the reset event
(70_reset_and_hazards.md R400). -/
inductive Event where
  | poll (i : Input)
  | reset
deriving DecidableEq, Repr

/-- The output record O of one step (20_memory.md R92). -/
structure Output where
  rxTake  : Bool
  txWrite : Option (List Byte)
  txen    : Bool
  done    : Bool
deriving DecidableEq, Repr

/-- The output record with no event and TXEN low: what a step starts from (10_state.md R48) and what the reset step
drives (70_reset_and_hazards.md R400). -/
def Output.quiet : Output :=
  { rxTake := false, txWrite := none, txen := false, done := false }

/-- The state tuple of 10_state.md R30, with the ports: `pending` is what the environment has yet to present, oldest
first (the model's own field, DESIGN CHOICE, log entry 1), `out` the output record of the step just taken (DESIGN
CHOICE, log entry 14). -/
structure State where
  /-- CFG_VALID (R31). -/
  cfgValid : Bool
  /-- BAUD (R32). -/
  baud : Option TimeReg
  /-- PARITY (R33). -/
  parity : Option (BitVec 2)
  /-- STOP2 (R33). -/
  stop2 : Option Bool
  /-- BPC (R34). -/
  bpc : Option (BitVec 8)
  /-- CHAR_TO (R35). -/
  charTo : Option TimeReg
  /-- FRAME_TO (R36). -/
  frameTo : Option TimeReg
  /-- RESP_TO (R37). -/
  respTo : TimeReg
  /-- TXEN_EN (R38). -/
  txenEn : Bool
  /-- TXEN (R39). -/
  txen : Bool
  /-- FSM (R40). -/
  fsm : Fsm
  /-- STATUS (R42). -/
  status : Option Status
  /-- EXC (R43). -/
  exc : Option Byte
  /-- OUT_BITS (R49). -/
  outBits : Cells Bool
  /-- OUT_REGS (R50). -/
  outRegs : Cells U16
  /-- REQ (R44). -/
  req : Req
  /-- BUF (R45). -/
  buf : Memory
  /-- LEN (R46): 0 to 256, the bound being an invariant (DESIGN CHOICE, log entry 10). -/
  len : Nat
  /-- T_START (R47). -/
  tStart : Option TimeReg
  /-- T_LAST (R47). -/
  tLast : Option TimeReg
  /-- REFUSED (R51), the model's mark. -/
  refused : Bool
  /-- The polls and resets to come. -/
  pending : List Event
  /-- The output record O (20_memory.md R92). -/
  out : Output
deriving DecidableEq, Repr

/-- Why the model stops where no rule gives the block anything to do. Each is safe: the model stops, it invents
nothing. From the reset state only `noInput` and `refusedForGood` can be raised. The faults on `none` are the spec's:
"a model must fault, not guess, on a read of it" (10_state.md, heading; R55; 93_implementation_defined.md I14). -/
inductive Fault where
  /-- Raised by `step` when the environment has presented no further input record (log entry 1). Safe. -/
  | noInput
  /-- Raised by `step` in a state with REFUSED = 1, which takes no further step (10_state.md R51). Safe. -/
  | refusedForGood
  /-- Raised by the ACCUM step, no byte offered, on CHAR_TO = `none` (10_state.md R35, R55 "a model that needs a value from
  it faults"; 93_implementation_defined.md I14). Safe. -/
  | charToUnset
  /-- Raised by the CONFIRM step on FRAME_TO = `none` (R36, R55; I14). Safe. -/
  | frameToUnset
  /-- Raised by the AWAIT step, no byte offered, on T_START = `none` (R47, R55; I14 names it). Safe. -/
  | tStartUnset
  /-- Raised by the ACCUM and CONFIRM steps on T_LAST = `none` (R47, R55; I14 names it). Safe. -/
  | tLastUnset
  /-- Raised by the TX_FLUSH step and the response decoders on a field of REQ that holds `none`, where the rule compares it
  (R44, R55; I14 names it). Safe. -/
  | reqUnset
  /-- Raised by the response decoder when REQ.OP is none of the eight function codes (43_receive.md R237). Safe. -/
  | reqOpUnknown
  /-- Raised by a read of a BUF byte that holds `none` (R45, R55; I14 names it). Safe. -/
  | bufUnset
  /-- Raised by the receive steps on a LEN above FRAME_CAP, a BUF index out of range (20_memory.md R90). Safe. -/
  | bufRange
  /-- Raised by the read decoders on an OUT_BITS or OUT_REGS index out of range (20_memory.md R90). Safe. -/
  | outRange
deriving DecidableEq, Repr

/-- The block's refusals: the closed list of 60_exceptions.md R371, beside the one the host asks for. Each is safe:
what the hardware does on these inputs no source says, and the model takes no further step. -/
inductive Refusal where
  /-- Answered by an arm of `exec` that has no meaning yet; no arm is left. Safe. -/
  | notModelled (mnemonic : String)
  /-- Raised by the accept step: OP is not one of the twelve of R111. Safe. -/
  | illegalOp
  /-- Raised by the accept step: a reserved command bit is 1. Safe. -/
  | reservedBits
  /-- Raised by the accept step: WDATA does not match the format. Safe. -/
  | wdataMismatch
  /-- Raised by the accept step: CFG_LINK with PARITY = 3. Safe. -/
  | parityReserved
  /-- Raised by CFG_LINK with BAUD = 0. Safe. -/
  | baudZero
  /-- Raised by every exchange command while CFG_VALID = 0. Safe. -/
  | notConfigured
  /-- Raised by `step`: a command offered while FSM is not IDLE. Safe. -/
  | commandWhileBusy
deriving DecidableEq, Repr

/-- The outcome of an action of the block. -/
abbrev Result := Host.Outcome State Fault Refusal

/-- REQ at reset: every field `none` (10_state.md R44). -/
def Req.unset : Req :=
  { op := none, unit := none, addr := none, qty := none, val := none }

/-- The state after reset (70_reset_and_hazards.md R400), with REFUSED at its value at model construction (R51) and
nothing yet presented by the environment. -/
def State.reset : State where
  cfgValid := false
  baud := none
  parity := none
  stop2 := none
  bpc := none
  charTo := none
  frameTo := none
  respTo := Config.respToReset
  txenEn := false
  txen := false
  fsm := .idle
  status := none
  exc := none
  outBits := []
  outRegs := []
  req := Req.unset
  buf := []
  len := 0
  tStart := none
  tLast := none
  refused := false
  pending := []
  out := Output.quiet

end Sys2Proof.Machine
end

