-- ==== Sys2Proof/Machine/Ops.lean ====
section
/-! DEFINITION. The named operations over the block's stores and registers: the indexed stores BUF, OUT_BITS and
OUT_REGS, the start and the end of a step, the end of a command (60_exceptions.md R366), refusals (R371) and the reset
event (70_reset_and_hazards.md R400). -/

namespace Sys2Proof.Machine

/-! ## Indexed stores -/

/-- The canonical form of a store whose indices lie from `lo` up to `hi`: indices strictly rising. -/
def Cells.wfFrom {α : Type} (lo hi : Nat) : Cells α → Bool
  | [] => true
  | (a, _) :: c => decide (lo ≤ a) && decide (a < hi) && Cells.wfFrom (a + 1) hi c

/-- The canonical form of a store of `n` elements, so that equal stores are equal lists. -/
def Cells.wf {α : Type} (n : Nat) (c : Cells α) : Bool := Cells.wfFrom 0 n c

/-- The canonical form of BUF: 256 cells (10_state.md R45). -/
def Memory.wf (m : Memory) : Bool := Cells.wf Config.frameCap m

/-- The value at an index, `none` where nothing has been written (00_scope.md R13, R14). -/
def Cells.get {α : Type} (a : Nat) : Cells α → Option α
  | [] => none
  | (b, v) :: c => if a = b then some v else Cells.get a c

/-- The store with `v` written at an index (00_scope.md R14). -/
def Cells.set {α : Type} (a : Nat) (v : α) : Cells α → Cells α
  | [] => [(a, v)]
  | (b, w) :: c =>
    if a < b then (a, v) :: (b, w) :: c
    else if a = b then (a, v) :: c
    else (b, w) :: Cells.set a v c

/-- The store with a sequence written from an index up: the element writes of one step land together
(00_scope.md R14, 20_memory.md R88). -/
def Cells.store {α : Type} (a : Nat) (vs : List α) (c : Cells α) : Cells α :=
  match vs with
  | [] => c
  | v :: vs => Cells.store (a + 1) vs (Cells.set a v c)

/-- The `n` values from an index up, `none` if one of them holds `none`. -/
def Cells.load {α : Type} (a n : Nat) (c : Cells α) : Option (List α) :=
  match n with
  | 0 => some []
  | n + 1 =>
    match Cells.get a c, Cells.load (a + 1) n c with
    | some v, some vs => some (v :: vs)
    | _, _ => none

/-! ## Registers that may hold no value -/

/-- A use of the value of a register: "a model that needs a value from it faults" when it holds `none` (10_state.md R55 and
heading, 93_implementation_defined.md I14). It stands where a rule uses the value, so that a rule that ends before does
not stop. -/
def need {α : Type} (r : Option α) (f : Fault) (k : α → Result) : Result :=
  match r with
  | some v => k v
  | none => .fault f

/-- The frame bytes BUF[0 .. LEN) (20_memory.md R81). -/
def State.frameBytes (s : State) : Option (List Byte) :=
  Cells.load 0 s.len s.buf

/-! ## The start and the end of a step -/

/-- The start of a poll: its input record is consumed and the output record cleared (10_state.md R48). -/
def State.begin (rest : List Event) (s : State) : State :=
  { s with pending := rest, out := Output.quiet }

/-- `O.txen <- TXEN as written by this step` (10_state.md R48). -/
def State.driveTxen (s : State) : State :=
  { s with out := { s.out with txen := s.txen } }

/-- The end of a step: a next state drives TXEN on the output record; a fault or a refusal drives nothing (10_state.md
R48, 60_exceptions.md R371). -/
def endStep (r : Result) : Result :=
  match r with
  | .next s => .next s.driveTxen
  | .fault f => .fault f
  | .refused f => .refused f

/-! ## The end of a command -/

/-- `raise S` (60_exceptions.md R366): STATUS is written, O.done is true and FSM becomes IDLE; nothing else changes.
The block has no trap entry beyond this (R369) and no return (R370). -/
def State.raise (st : Status) (s : State) : State :=
  { s with status := some st, fsm := .idle, out := { s.out with done := true } }

/-- The transport outcomes of 43_receive.md R230 that end a command, and "any other" (60_exceptions.md R362, R363).
No rule of the block produces `other` (DEDUCED, log entry 17). -/
inductive CommError where
  | timeout | frameError | crcError | other
deriving DecidableEq, Repr

/-- The total error translation of 60_exceptions.md R362. -/
def CommError.status : CommError → Status
  | .timeout => .responseTimeout
  | .frameError => .frameError
  | .crcError => .crcError
  | .other => .unknownCommError

/-- `comm_fail(e)` (60_exceptions.md R362). -/
def State.commFail (e : CommError) (s : State) : State :=
  s.raise e.status

/-! ## Refusals and reset -/

/-- The state a refusal leaves: REFUSED set, nothing else written (60_exceptions.md R371). The step's own answer is the
refusal outcome, which ends the run (DEDUCED, log entry 4). -/
def State.markRefused (s : State) : State :=
  { s with refused := true }

/-- The reset event (70_reset_and_hazards.md R400): every register at its reset value, REFUSED kept (10_state.md R51),
no output event; what the environment has yet to present stays with the environment (DESIGN CHOICE, log entry 6). -/
def State.resetEvent (rest : List Event) (s : State) : State :=
  { State.reset with refused := s.refused, pending := rest }

end Sys2Proof.Machine
end

