-- ==== Sys2Proof/Machine/Timing.lean ====
section
/-! DEFINITION. The timing model (41_timing.md): bits per character (R180), the two thresholds (R181, R182), computed
over the naturals as R183 allows. -/

namespace Sys2Proof.Machine

/-- `bpc(PARITY, STOP2)` (R180), the mapping the source calls exact (90_conflicts.md C2). -/
def bitsPerChar (parity : BitVec 2) (stop2 : Bool) : Nat :=
  if parity ≠ 0#2 then (if stop2 then 12 else 11) else (if stop2 then 11 else 10)

/-- charTimeout in microseconds (R181, R182); the division truncates (00_scope.md R12). -/
def charTimeout (bpc baud : Nat) : Nat :=
  if baud ≤ Config.baudSplit then bpc * Config.kCharLo / baud
  else bpc * Config.kHi / baud + Config.charFloor

/-- frameTimeout in microseconds (R181, R182). -/
def frameTimeout (bpc baud : Nat) : Nat :=
  if baud ≤ Config.baudSplit then bpc * Config.kFrameLo / baud
  else bpc * Config.kHi / baud + Config.frameFloor

end Sys2Proof.Machine
end

