-- ==== Sys2Proof/Machine/Flags.lean ====
section
/-! DEFINITION. The flags of the block (10_state.md R54), the numbers of FSM and STATUS, the classes of the outcome
taxonomy (60_exceptions.md R360) and the three timeout tests (41_timing.md R187, R189). -/

namespace Sys2Proof.Machine

/-- The value of the FSM register (10_state.md R40). -/
def Fsm.code : Fsm → BitVec 3
  | .idle => 0#3
  | .txWrite => 1#3
  | .txFlush => 2#3
  | .await => 3#3
  | .accum => 4#3
  | .confirm => 5#3

/-- BUSY (10_state.md R41): a function of FSM. -/
def State.busy (s : State) : Bool := s.fsm != .idle

/-- The presence bit of EXC (10_state.md R43, R54). -/
def State.excPresent (s : State) : Bool := s.exc.isSome

/-- The value of the STATUS register (30_encoding.md R132). -/
def Status.code : Status → Byte
  | .success => 0#8
  | .invalidId => 1#8
  | .invalidQuantity => 2#8
  | .invalidBuffer => 3#8
  | .responseTimeout => 4#8
  | .frameError => 5#8
  | .crcError => 6#8
  | .unknownCommError => 7#8
  | .unexpectedId => 8#8
  | .unexpectedFunctionCode => 9#8
  | .unexpectedLength => 10#8
  | .unexpectedByteCount => 11#8
  | .unexpectedAddress => 12#8
  | .unexpectedValue => 13#8
  | .unexpectedQuantity => 14#8
  | .exceptionResponse => 15#8

/-- The five classes of outcome (60_exceptions.md R360). -/
inductive StatusClass where
  | success | inputValidation | transport | protocol | exception
deriving DecidableEq, Repr

/-- The class of a status (30_encoding.md R132). -/
def Status.outcomeClass : Status → StatusClass
  | .success => .success
  | .invalidId | .invalidQuantity | .invalidBuffer => .inputValidation
  | .responseTimeout | .frameError | .crcError | .unknownCommError => .transport
  | .unexpectedId | .unexpectedFunctionCode | .unexpectedLength | .unexpectedByteCount => .protocol
  | .unexpectedAddress | .unexpectedValue | .unexpectedQuantity => .protocol
  | .exceptionResponse => .exception

/-- `elapsed(t0) = (I.now - t0) mod 2^32` (41_timing.md R187): subtraction that wraps at the width of the time base. -/
def elapsed (now : Time) (t0 : TimeReg) : Time := now - t0

/-- resp_expired (41_timing.md R189). -/
def respExpired (now : Time) (tStart respTo : TimeReg) : Bool := decide (respTo.toNat ≤ (elapsed now tStart).toNat)

/-- char_gap (41_timing.md R189). -/
def charGap (now : Time) (tLast charTo : TimeReg) : Bool := decide (charTo.toNat < (elapsed now tLast).toNat)

/-- frame_gap (41_timing.md R189). -/
def frameGap (now : Time) (tLast frameTo : TimeReg) : Bool := decide (frameTo.toNat ≤ (elapsed now tLast).toNat)

end Sys2Proof.Machine
end

