-- ==== Sys2Proof/WellFormed.lean ====
section
/-! DEFINITION. The well-formedness of a command that its fields can express: checks 3 and 4 of 30_encoding.md R120.
Checks 1 and 2 (an unassigned OP, a reserved bit) are facts about a word, and no `Instr` stands for such a word. -/

namespace Sys2Proof

/-- The length check of WDATA against CAP (30_encoding.md R115). -/
def wdataFits {α : Type} (cap : U16) (data : List α) : Bool :=
  data.length == cap.toNat

/-- The PARITY value 3 is reserved (10_state.md R33, 30_encoding.md R116). -/
def parityReserved (parity : BitVec 2) : Bool :=
  parity == 3#2

/-- A command the block gives a meaning (30_encoding.md R120). The value checks of units, quantities and capacities
are no part of it: they end a command with a status. -/
def wellFormed : Instr → Bool
  | .writeCoils _ _ _ cap data => wdataFits cap data
  | .writeRegs _ _ _ cap data => wdataFits cap data
  | .cfgLink _ parity _ => !parityReserved parity
  | .readCoils _ _ _ _ | .readDi _ _ _ _ | .readHr _ _ _ _ | .readIr _ _ _ _ => true
  | .writeCoil _ _ _ | .writeReg _ _ _ => true
  | .cfgRespTo _ | .cfgTxen _ | .clearExc => true

end Sys2Proof
end

