-- ==== Sys2Proof/Machine/Configuration.lean ====
section
/-! DEFINITION. The four configuration commands (47_config.md R340 to R343). Each runs whole in the accept step, leaves
FSM, STATUS and O.done alone, and needs no CFG_VALID (R344). -/

namespace Sys2Proof.Machine

/-- The registers CFG_LINK writes, with the thresholds recomputed (R340; 41_timing.md R180 to R184). -/
def State.setLink (baud : TimeReg) (parity : BitVec 2) (stop2 : Bool) (s : State) : State :=
  let n := bitsPerChar parity stop2
  { s with
    baud := some baud
    parity := some parity
    stop2 := some stop2
    bpc := some (BitVec.ofNat 8 n)
    charTo := some (BitVec.ofNat Config.toW (charTimeout n baud.toNat))
    frameTo := some (BitVec.ofNat Config.toW (frameTimeout n baud.toNat))
    cfgValid := true }

/-- CFG_LINK (R340). PARITY = 3 is refused before BAUD = 0 (30_encoding.md R120, 60_exceptions.md R371; DESIGN
CHOICE, log entry 8). -/
def execCfgLink (baud : TimeReg) (parity : BitVec 2) (stop2 : Bool) (s : State) : Result :=
  if parityReserved parity then .refused .parityReserved
  else if baud = 0#Config.toW then .refused .baudZero
  else .next (s.setLink baud parity stop2)

/-- `RESP_TO <- W[39:8]` (R341). -/
def State.setRespTo (resp : TimeReg) (s : State) : State := { s with respTo := resp }

/-- CFG_RESP_TO (R341): every value is legal. -/
def execCfgRespTo (resp : TimeReg) (s : State) : Result := .next (s.setRespTo resp)

/-- `TXEN_EN <- W[8]` (R342). -/
def State.setTxenEn (en : Bool) (s : State) : State := { s with txenEn := en }

/-- CFG_TXEN (R342): TXEN itself is not changed. -/
def execCfgTxen (en : Bool) (s : State) : Result := .next (s.setTxenEn en)

/-- `EXC <- none` (R343). -/
def State.clearExc (s : State) : State := { s with exc := none }

/-- CLEAR_EXC (R343): STATUS keeps its value. -/
def execClearExc (s : State) : Result := .next s.clearExc

end Sys2Proof.Machine
end

