-- ==== Sys2Proof/Decode.lean ====
section
/-! DEFINITION. The decoder of command words (30_encoding.md R110 to R120), total on every word and every WDATA,
and the encoder written from the same formats. -/

namespace Sys2Proof

/-- Why a command is no instruction: the four checks of 30_encoding.md R120, in its order. -/
inductive DecodeError where
  /-- OP is not one of the twelve values of R111. -/
  | illegalOp
  /-- A reserved bit of the format is 1. -/
  | reservedBits
  /-- WDATA has not the shape or length the format requires. -/
  | wdataMismatch
  /-- CFG_LINK with PARITY = 3. -/
  | parityReserved
deriving DecidableEq, Repr

/-- The OP value of each operation (30_encoding.md R111). -/
def Op.byte : Op → Byte
  | .readCoils => 0x01#8
  | .readDi => 0x02#8
  | .readHr => 0x03#8
  | .readIr => 0x04#8
  | .writeCoil => 0x05#8
  | .writeReg => 0x06#8
  | .writeCoils => 0x0F#8
  | .writeRegs => 0x10#8
  | .cfgLink => 0x40#8
  | .cfgRespTo => 0x41#8
  | .cfgTxen => 0x42#8
  | .clearExc => 0x43#8

/-- The twelve operations in the order of 30_encoding.md R111. -/
def Op.all : List Op :=
  [.readCoils, .readDi, .readHr, .readIr, .writeCoil, .writeReg, .writeCoils, .writeRegs,
   .cfgLink, .cfgRespTo, .cfgTxen, .clearExc]

/-- The operation an OP byte names, if it names one. -/
def Op.ofByte? (b : Byte) : Option Op :=
  Op.all.find? (fun op => op.byte == b)

/-- The reserved bits of each format (30_encoding.md R112 to R119): the bits that must be 0. -/
def Op.reserved : Op → Word
  | .readCoils | .readDi | .readHr | .readIr => 0#64
  | .writeCoil => 0xFFFFFFFE00000000#64
  | .writeReg => 0xFFFF000000000000#64
  | .writeCoils | .writeRegs => 0#64
  | .cfgLink => 0xFFFFF80000000000#64
  | .cfgRespTo => 0xFFFFFF0000000000#64
  | .cfgTxen => 0xFFFFFFFFFFFFFE00#64
  | .clearExc => 0xFFFFFFFFFFFFFF00#64

/-- W[7:0], the operation field (R110). -/
def opField (w : Word) : Byte := w.extractLsb' 0 8

/-- W[15:8], the unit address of the exchange formats (R112 to R115). -/
def unitField (w : Word) : Byte := w.extractLsb' 8 8

/-- W[31:16], the address of the exchange formats (R112 to R115). -/
def addrField (w : Word) : U16 := w.extractLsb' 16 16

/-- W[47:32], the quantity of X-READ and X-MULTI (R112, R115). -/
def qtyField (w : Word) : U16 := w.extractLsb' 32 16

/-- W[63:48], the capacity of X-READ and the element count of X-MULTI (R112, R115). -/
def capField (w : Word) : U16 := w.extractLsb' 48 16

/-- W[32], the coil value of X-COIL (R113). -/
def coilField (w : Word) : Bool := w.getLsbD 32

/-- W[47:32], the register value of X-REG (R114). -/
def valueField (w : Word) : U16 := w.extractLsb' 32 16

/-- W[39:8], the baud rate of C-LINK (R116). -/
def baudField (w : Word) : TimeReg := w.extractLsb' 8 Config.toW

/-- W[41:40], the parity of C-LINK (R116). -/
def parityField (w : Word) : BitVec 2 := w.extractLsb' 40 2

/-- W[42], the stop bits of C-LINK (R116). -/
def stop2Field (w : Word) : Bool := w.getLsbD 42

/-- W[39:8], the response timeout of C-RESP (R117). -/
def respField (w : Word) : TimeReg := w.extractLsb' 8 Config.toW

/-- W[8], the enable bit of C-TXEN (R118). -/
def enField (w : Word) : Bool := w.getLsbD 8

/-- A format whose WDATA must be `none` (check 3 of R120). -/
def withoutWData (wd : WData) (i : Instr) : Except DecodeError Instr :=
  match wd with
  | .none => .ok i
  | .bits _ => .error .wdataMismatch
  | .regs _ => .error .wdataMismatch

/-- Checks 3 and 4 of R120 and the fields of the format, for an operation whose reserved bits are 0. -/
def Op.assemble (op : Op) (w : Word) (wd : WData) : Except DecodeError Instr :=
  match op with
  | .readCoils => withoutWData wd (.readCoils (unitField w) (addrField w) (qtyField w) (capField w))
  | .readDi => withoutWData wd (.readDi (unitField w) (addrField w) (qtyField w) (capField w))
  | .readHr => withoutWData wd (.readHr (unitField w) (addrField w) (qtyField w) (capField w))
  | .readIr => withoutWData wd (.readIr (unitField w) (addrField w) (qtyField w) (capField w))
  | .writeCoil => withoutWData wd (.writeCoil (unitField w) (addrField w) (coilField w))
  | .writeReg => withoutWData wd (.writeReg (unitField w) (addrField w) (valueField w))
  | .writeCoils =>
    match wd with
    | .bits s =>
      if wdataFits (capField w) s then
        .ok (.writeCoils (unitField w) (addrField w) (qtyField w) (capField w) s)
      else .error .wdataMismatch
    | .none => .error .wdataMismatch
    | .regs _ => .error .wdataMismatch
  | .writeRegs =>
    match wd with
    | .regs s =>
      if wdataFits (capField w) s then
        .ok (.writeRegs (unitField w) (addrField w) (qtyField w) (capField w) s)
      else .error .wdataMismatch
    | .none => .error .wdataMismatch
    | .bits _ => .error .wdataMismatch
  | .cfgLink =>
    match wd with
    | .none =>
      if parityReserved (parityField w) then .error .parityReserved
      else .ok (.cfgLink (baudField w) (parityField w) (stop2Field w))
    | .bits _ => .error .wdataMismatch
    | .regs _ => .error .wdataMismatch
  | .cfgRespTo => withoutWData wd (.cfgRespTo (respField w))
  | .cfgTxen => withoutWData wd (.cfgTxen (enField w))
  | .clearExc => withoutWData wd .clearExc

/-- The command decoder: the checks of 30_encoding.md R120 in its order, the first that fails decides. -/
def decode (c : Command) : Except DecodeError Instr :=
  match Op.ofByte? (opField c.word) with
  | none => .error .illegalOp
  | some op =>
    if c.word &&& op.reserved = 0#64 then op.assemble c.word c.wdata
    else .error .reservedBits

/-- Format X-READ and X-MULTI: OP, UNIT, ADDR, QTY, CAP from bit 0 up (R112, R115). -/
def wordQty (op : Op) (unit : Byte) (addr qty cap : U16) : Word :=
  cap ++ qty ++ addr ++ unit ++ op.byte

/-- The word of a command, from the formats R112 to R119 with every reserved bit 0. -/
def encodeWord : Instr → Word
  | .readCoils unit addr qty cap => wordQty .readCoils unit addr qty cap
  | .readDi unit addr qty cap => wordQty .readDi unit addr qty cap
  | .readHr unit addr qty cap => wordQty .readHr unit addr qty cap
  | .readIr unit addr qty cap => wordQty .readIr unit addr qty cap
  | .writeCoil unit addr coil => 0#31 ++ BitVec.ofBool coil ++ addr ++ unit ++ Op.writeCoil.byte
  | .writeReg unit addr value => 0#16 ++ value ++ addr ++ unit ++ Op.writeReg.byte
  | .writeCoils unit addr qty cap _ => wordQty .writeCoils unit addr qty cap
  | .writeRegs unit addr qty cap _ => wordQty .writeRegs unit addr qty cap
  | .cfgLink baud parity stop2 => 0#21 ++ BitVec.ofBool stop2 ++ parity ++ baud ++ Op.cfgLink.byte
  | .cfgRespTo resp => 0#24 ++ resp ++ Op.cfgRespTo.byte
  | .cfgTxen en => 0#55 ++ BitVec.ofBool en ++ Op.cfgTxen.byte
  | .clearExc => 0#56 ++ Op.clearExc.byte

/-- The WDATA operand of a command (R112 to R119). -/
def encodeWData : Instr → WData
  | .writeCoils _ _ _ _ data => .bits data
  | .writeRegs _ _ _ _ data => .regs data
  | .readCoils _ _ _ _ | .readDi _ _ _ _ | .readHr _ _ _ _ | .readIr _ _ _ _ => .none
  | .writeCoil _ _ _ | .writeReg _ _ _ => .none
  | .cfgLink _ _ _ | .cfgRespTo _ | .cfgTxen _ | .clearExc => .none

/-- The command a caller presents for an instruction. -/
def encode (i : Instr) : Command :=
  { word := encodeWord i, wdata := encodeWData i }

/-- The WDATA operand of zeros that fits a word: CAP elements for the two X-MULTI operations, `none` otherwise
(30_encoding.md R115; the opcode table gives WDATA no bits). -/
def zeroWData (w : Word) : WData :=
  match Op.ofByte? (opField w) with
  | some .writeCoils => .bits (List.replicate (capField w).toNat false)
  | some .writeRegs => .regs (List.replicate (capField w).toNat 0#16)
  | _ => .none

/-- The command whose word's low `nbits` bits are those of `w`, bit 0 of the table being bit 0 of W, the bits above
them 0 and WDATA of zeros. -/
def tableCommand (nbits w : Nat) : Command :=
  let word : Word := BitVec.ofNat 64 (w % 2 ^ nbits)
  { word := word, wdata := zeroWData word }

/-- What the decoder reads from an opcode-table word. -/
def decodeTableWord (nbits w : Nat) : Option Instr :=
  match decode (tableCommand nbits w) with
  | .ok i => some i
  | .error _ => none

end Sys2Proof
end

