-- ==== Sys2Proof/Machine/Operands.lean ====
section
/-! DEFINITION. Operand forms and frame fields: byte order and packing (20_memory.md R82 to R84), unit address classes
(30_encoding.md R129), the operand checks of the three families (44_reads.md R270, 45_single_writes.md R300,
46_multiple_writes.md R320), byte counts (44_reads.md R272) and the ADU record (42_framer.md R200, R201). -/

namespace Sys2Proof.Machine

/-! ## Byte order and packing -/

/-- The two bytes of a 16-bit field, high byte first (20_memory.md R82). -/
def be16 (v : U16) : List Byte := [v.extractLsb' 8 8, v.extractLsb' 0 8]

/-- The 16-bit field of two bytes, high byte first (20_memory.md R82). -/
def ofBe16 (hi lo : Byte) : U16 := hi ++ lo

/-- The two CRC bytes of a frame tail, low byte first (20_memory.md R83). -/
def crcBytes (c : U16) : List Byte := [c.extractLsb' 0 8, c.extractLsb' 8 8]

/-- The 16-bit words of a byte sequence, high byte first: word `i` is the pair at offset `2 * i` (44_reads.md R277). -/
def wordsOf : List Byte → List U16
  | hi :: lo :: bs => ofBe16 hi lo :: wordsOf bs
  | [_] => []
  | [] => []

/-- The bits of a byte, bit 0 first (20_memory.md R84). -/
def bitsOfByte (b : Byte) : List Bool := (List.range 8).map b.getLsbD

/-- The bits of packed bytes, element `i` being bit `i % 8` of byte `i / 8` (20_memory.md R84, 44_reads.md R276). -/
def bitsOf : List Byte → List Bool
  | [] => []
  | b :: bs => bitsOfByte b ++ bitsOf bs

/-- The packed byte of a bit sequence whose first element goes to bit `k`; what lies above bit 7 is left out. -/
def packFrom (k : Nat) : List Bool → Byte
  | [] => 0#8
  | b :: s => if k < 8 then (if b then 1#8 <<< k else 0#8) ||| packFrom (k + 1) s else 0#8

/-- The byte that packs the first eight elements of a bit sequence, element 0 in bit 0, absent elements 0
(46_multiple_writes.md R322). -/
def packByte (s : List Bool) : Byte := packFrom 0 s

/-- The `n` packed bytes of a bit sequence (46_multiple_writes.md R322): byte `j` packs elements `8 * j` to
`8 * j + 7`. -/
def packBits : Nat → List Bool → List Byte
  | 0, _ => []
  | n + 1, s => packByte s :: packBits n (s.drop 8)

/-- `ceil_div(a, b)` (00_scope.md R12). -/
def ceilDiv (a b : Nat) : Nat := (a + b - 1) / b

/-- The number of packed bytes of `q` bits: `byteCount = ceil(quantity/8)` (44_reads.md R272, 46_multiple_writes.md
R322). -/
def bitByteCount (q : Nat) : Nat := ceilDiv q 8

/-- The number of bytes of `q` registers: `quantity*2` (44_reads.md R272, 46_multiple_writes.md R323). -/
def regByteCount (q : Nat) : Nat := 2 * q

/-! ## Unit addresses and operand checks -/

/-- The broadcast address (30_encoding.md R129). -/
def isBroadcast (u : Byte) : Bool := u == 0#8

/-- A unit address above 247, rejected everywhere (30_encoding.md R129). -/
def isInvalidUnit (u : Byte) : Bool := decide (Config.maxUnit < u.toNat)

/-- The quantity test with its limit (44_reads.md R270, 46_multiple_writes.md R320). -/
def isInvalidQuantity (maxq : Nat) (q : U16) : Bool :=
  q == 0#16 || decide (maxq < q.toNat)

/-- The capacity test (92_eei_decisions.md D6). -/
def isInvalidBuffer (q cap : U16) : Bool := decide (cap.toNat < q.toNat)

/-- `validate_read` (44_reads.md R270): the status it raises, in the order unit, quantity, capacity. -/
def validateRead (maxq : Nat) (unit : Byte) (qty cap : U16) : Option Status :=
  if isBroadcast unit || isInvalidUnit unit then some .invalidId
  else if isInvalidQuantity maxq qty then some .invalidQuantity
  else if isInvalidBuffer qty cap then some .invalidBuffer
  else none

/-- `validate_single` (45_single_writes.md R300): only the unit is checked, and unit 0 is allowed. -/
def validateSingle (unit : Byte) : Option Status :=
  if isInvalidUnit unit then some .invalidId else none

/-- `validate_multi` (46_multiple_writes.md R320): unit, quantity, capacity, and unit 0 is allowed. -/
def validateMulti (maxq : Nat) (unit : Byte) (qty cap : U16) : Option Status :=
  if isInvalidUnit unit then some .invalidId
  else if isInvalidQuantity maxq qty then some .invalidQuantity
  else if isInvalidBuffer qty cap then some .invalidBuffer
  else none

/-- The wire value of a coil (45_single_writes.md R300). -/
def coilValue (coil : Bool) : U16 := if coil then Config.coilOn else Config.coilOff

/-! ## Request bytes before the CRC (30_encoding.md R124) -/

/-- Unit, function code and two 16-bit fields: the requests of FC 1 to 6 (44_reads.md R271, 45_single_writes.md R301)
and the first six bytes of FC 15 and 16. -/
def requestHead (unit op : Byte) (addr v : U16) : List Byte :=
  [unit, op] ++ be16 addr ++ be16 v

/-- `encode_coils` (46_multiple_writes.md R322): elements at index `qty` and above are ignored, padding bits are 0. -/
def coilsRequest (unit op : Byte) (addr qty : U16) (data : List Bool) : List Byte :=
  let bc := bitByteCount qty.toNat
  requestHead unit op addr qty ++ [BitVec.ofNat 8 bc] ++ packBits bc (data.take qty.toNat)

/-- `encode_regs` (46_multiple_writes.md R323). -/
def regsRequest (unit op : Byte) (addr qty : U16) (data : List U16) : List Byte :=
  requestHead unit op addr qty ++ [BitVec.ofNat 8 (regByteCount qty.toNat)]
    ++ (data.take qty.toNat).flatMap be16

/-! ## The ADU (42_framer.md R200, R201) -/

/-- One protocol frame without its CRC: unit address, function code, data. The data length is `data.length`. -/
structure Adu where
  unit : Byte
  fc   : Byte
  data : List Byte
deriving DecidableEq, Repr

end Sys2Proof.Machine
end

