-- ==== Sys2Proof/Machine/Crc.lean ====
section
/-! DEFINITION. The CRC-16 checksum engine (40_crc.md R160 to R164), a pure function of a byte sequence. -/

namespace Sys2Proof.Machine

/-- `crc_bit` (R162): shift right by one; when the bit shifted out is 1, XOR with CRC_POLY. -/
def crcBit (c : U16) : U16 :=
  if c.getLsbD 0 then (c >>> 1) ^^^ Config.crcPoly else c >>> 1

/-- `n` bit steps. -/
def crcBits : Nat → U16 → U16
  | 0, c => c
  | n + 1, c => crcBits n (crcBit c)

/-- `crc_byte` (R161): the byte is XORed into the low 8 bits, then eight bit steps run. -/
def crcByte (c : U16) (b : Byte) : U16 :=
  crcBits 8 (c ^^^ b.setWidth 16)

/-- The engine's register after a byte sequence, from a given register value. -/
def crcFrom (c : U16) (bs : List Byte) : U16 := bs.foldl crcByte c

/-- `crc16` (R160): seeded with CRC_INIT, no final XOR (R163). -/
def crc16 (bs : List Byte) : U16 := crcFrom Config.crcInit bs

/-- A frame: the bytes and their CRC, low byte first (42_framer.md R203, 20_memory.md R83). -/
def withCrc (bs : List Byte) : List Byte := bs ++ crcBytes (crc16 bs)

end Sys2Proof.Machine
end

