-- ==== Sys2Proof/Machine/Framer.lean ====
section
/-! DEFINITION. Command acceptance, request framing and send (42_framer.md). The accept step is shared by the eight
exchange commands; the TX_WRITE and TX_FLUSH steps are the FSM's own. -/

namespace Sys2Proof.Machine

/-- An exchange command while CFG_VALID = 0 is refused (R202, 10_state.md R31). -/
def whenConfigured (s : State) (r : Result) : Result :=
  if s.cfgValid then r else .refused .notConfigured

/-- The accepted exchange (R202): EXC is cleared, the request latched, the frame built in BUF with its CRC (R203), TXEN
driven to TXEN_EN, and FSM goes to TX_WRITE. `bytes` are the request bytes before the CRC; the later lines of the rule
use the values its earlier lines write (DEDUCED, log entry 5). -/
def State.beginExchange (req : Req) (bytes : List Byte) (s : State) : State :=
  { s with
    exc := none
    req := req
    buf := Cells.store 0 (withCrc bytes) s.buf
    len := (withCrc bytes).length
    txen := s.txenEn
    fsm := .txWrite }

/-- The accept step of an exchange command (R202): the configuration check, the family's operand check, which may raise
with nothing else changed, and the accepted exchange. -/
def acceptExchange (invalid : Option Status) (req : Req) (bytes : List Byte) (s : State) : Result :=
  whenConfigured s
    (match invalid with
     | some st => .next (s.raise st)
     | none => .next (s.beginExchange req bytes))

/-- `emit O.tx_write <- some BUF[0 .. LEN)` and `FSM <- TX_FLUSH` (R204). -/
def State.sendFrame (bs : List Byte) (s : State) : State :=
  { s with out := { s.out with txWrite := some bs }, fsm := .txFlush }

/-- The TX_WRITE step (R204): the whole frame is handed to the transport in one event. -/
def txWriteStep (s : State) : Result :=
  need s.frameBytes .bufUnset fun bs => .next (s.sendFrame bs)

/-- The response wait begins (R205): T_START is stamped and LEN restarts at 0. -/
def State.startAwait (now : Time) (s : State) : State :=
  { s with tStart := some now, len := 0, fsm := .await }

/-- `TXEN <- 0` (R205). -/
def State.releaseTxen (s : State) : State := { s with txen := false }

/-- The TX_FLUSH step (R205): wait for the flush, release TXEN, end a broadcast with SUCCESS, start the response wait of
any other exchange. -/
def txFlushStep (i : Input) (s : State) : Result :=
  if i.txDone then
    need s.req.unit .reqUnset fun u =>
      if isBroadcast u then .next (s.releaseTxen.raise .success)
      else .next (s.releaseTxen.startAwait i.now)
  else .next s

end Sys2Proof.Machine
end

