-- ==== Sys2Proof/Machine/MultiWrites.lean ====
section
/-! DEFINITION. The two multiple-write commands (46_multiple_writes.md): accept steps and response decoders. -/

namespace Sys2Proof.Machine

/-- The request latch of a multiple write (R320). -/
def multiReq (op unit : Byte) (addr qty : U16) : Req :=
  { op := some op, unit := some unit, addr := some addr, qty := some qty, val := none }

/-- WRITE_COILS (R326). A WDATA sequence that does not fit CAP is refused (30_encoding.md R115, R120; DESIGN CHOICE, log
entry 8). -/
def execWriteCoils (unit : Byte) (addr qty cap : U16) (data : List Bool) (s : State) : Result :=
  if wdataFits cap data then
    acceptExchange (validateMulti Config.maxWriteCoils unit qty cap) (multiReq Op.writeCoils.byte unit addr qty)
      (coilsRequest unit Op.writeCoils.byte addr qty data) s
  else .refused .wdataMismatch

/-- WRITE_REGS (R327). A WDATA sequence that does not fit CAP is refused (30_encoding.md R115, R120; DESIGN CHOICE, log
entry 8). -/
def execWriteRegs (unit : Byte) (addr qty cap : U16) (data : List U16) (s : State) : Result :=
  if wdataFits cap data then
    acceptExchange (validateMulti Config.maxWriteRegs unit qty cap) (multiReq Op.writeRegs.byte unit addr qty)
      (regsRequest unit Op.writeRegs.byte addr qty data) s
  else .refused .wdataMismatch

/-- `decode_multi` (R324): length 4, then the echoed address, then the echoed quantity, each field of REQ read where the
rule compares it. -/
def decodeMulti (adu : Adu) (s : State) : Result :=
  match adu.data with
  | [a1, a0, q1, q0] =>
    need s.req.addr .reqUnset fun addr =>
      if ofBe16 a1 a0 ≠ addr then .next (s.raise .unexpectedAddress)
      else
        need s.req.qty .reqUnset fun qty =>
          if ofBe16 q1 q0 ≠ qty then .next (s.raise .unexpectedQuantity)
          else .next (s.raise .success)
  | _ => .next (s.raise .unexpectedLength)

/-- The response decoder of WRITE_COILS (R326). -/
def decodeWriteCoils (adu : Adu) (s : State) : Result := decodeMulti adu s

/-- The response decoder of WRITE_REGS (R327). -/
def decodeWriteRegs (adu : Adu) (s : State) : Result := decodeMulti adu s

end Sys2Proof.Machine
end

