-- ==== Sys2Proof/Machine/Reads.lean ====
section
/-! DEFINITION. The four read commands (44_reads.md): their accept steps, and the decoders of their responses, run at
the end of the response frame after the common checks (43_receive.md R237). -/

namespace Sys2Proof.Machine

/-! ## Accept -/

/-- The request latch of a read (R270). -/
def readReq (op unit : Byte) (addr qty : U16) : Req :=
  { op := some op, unit := some unit, addr := some addr, qty := some qty, val := none }

/-- The accept step the four reads share (R270, R271). -/
def acceptRead (op : Byte) (maxq : Nat) (unit : Byte) (addr qty cap : U16) (s : State) : Result :=
  acceptExchange (validateRead maxq unit qty cap) (readReq op unit addr qty) (requestHead unit op addr qty) s

/-- READ_COILS (R280). -/
def execReadCoils (unit : Byte) (addr qty cap : U16) (s : State) : Result :=
  acceptRead Op.readCoils.byte Config.maxReadBits unit addr qty cap s

/-- READ_DI (R281). -/
def execReadDi (unit : Byte) (addr qty cap : U16) (s : State) : Result :=
  acceptRead Op.readDi.byte Config.maxReadBits unit addr qty cap s

/-- READ_HR (R282). -/
def execReadHr (unit : Byte) (addr qty cap : U16) (s : State) : Result :=
  acceptRead Op.readHr.byte Config.maxReadRegs unit addr qty cap s

/-- READ_IR (R283). -/
def execReadIr (unit : Byte) (addr qty cap : U16) (s : State) : Result :=
  acceptRead Op.readIr.byte Config.maxReadRegs unit addr qty cap s

/-! ## Decode -/

/-- `unpack_bits` (R276): OUT_BITS[0 .. q) from the packed bytes; the padding bits are left out. -/
def State.unpackBits (q : Nat) (packed : List Byte) (s : State) : State :=
  { s with outBits := Cells.store 0 ((bitsOf packed).take q) s.outBits }

/-- `unpack_regs` (R277): OUT_REGS[0 .. q) from the big-endian words. -/
def State.unpackRegs (q : Nat) (bytes : List Byte) (s : State) : State :=
  { s with outRegs := Cells.store 0 ((wordsOf bytes).take q) s.outRegs }

/-- `decode_read` (R274): the length check, the byte-count check (R275), the unpack and SUCCESS. `bc` is
`byte_count(REQ.OP, REQ.QTY)`, `capacity` the elements of the output array (20_memory.md R90). -/
def decodeRead (byteCount : Nat → Nat) (capacity : Nat) (unpack : Nat → List Byte → State → State)
    (adu : Adu) (s : State) : Result :=
  need s.req.qty .reqUnset fun qty =>
    let q := qty.toNat
    let bc := byteCount q
    match adu.data with
    | [] => .next (s.raise .unexpectedLength)
    | declared :: payload =>
      if payload.length ≠ bc then .next (s.raise .unexpectedLength)
      else if declared.toNat ≠ bc then .next (s.raise .unexpectedByteCount)
      else if capacity < q then .fault .outRange
      else .next ((unpack q payload s).raise .success)

/-- The response decoder of READ_COILS (R280). -/
def decodeReadCoils (adu : Adu) (s : State) : Result :=
  decodeRead bitByteCount Config.outBitsN State.unpackBits adu s

/-- The response decoder of READ_DI (R281). -/
def decodeReadDi (adu : Adu) (s : State) : Result :=
  decodeRead bitByteCount Config.outBitsN State.unpackBits adu s

/-- The response decoder of READ_HR (R282). -/
def decodeReadHr (adu : Adu) (s : State) : Result :=
  decodeRead regByteCount Config.outRegsN State.unpackRegs adu s

/-- The response decoder of READ_IR (R283). -/
def decodeReadIr (adu : Adu) (s : State) : Result :=
  decodeRead regByteCount Config.outRegsN State.unpackRegs adu s

end Sys2Proof.Machine
end

