-- ==== Sys2Proof/Machine/SingleWrites.lean ====
section
/-! DEFINITION. The two single-write commands (45_single_writes.md): accept steps and response decoders. -/

namespace Sys2Proof.Machine

/-- The request latch of a single write (R300). -/
def singleReq (op unit : Byte) (addr val : U16) : Req :=
  { op := some op, unit := some unit, addr := some addr, qty := none, val := some val }

/-- The accept step the two single writes share (R300, R301). -/
def acceptSingle (op unit : Byte) (addr val : U16) (s : State) : Result :=
  acceptExchange (validateSingle unit) (singleReq op unit addr val) (requestHead unit op addr val) s

/-- WRITE_COIL (R304). -/
def execWriteCoil (unit : Byte) (addr : U16) (coil : Bool) (s : State) : Result :=
  acceptSingle Op.writeCoil.byte unit addr (coilValue coil) s

/-- WRITE_REG (R305). -/
def execWriteReg (unit : Byte) (addr value : U16) (s : State) : Result :=
  acceptSingle Op.writeReg.byte unit addr value s

/-- `decode_single` (R302): length 4, then the echoed address, then the echoed value, each field of REQ read where the
rule compares it. -/
def decodeSingle (adu : Adu) (s : State) : Result :=
  match adu.data with
  | [a1, a0, v1, v0] =>
    need s.req.addr .reqUnset fun addr =>
      if ofBe16 a1 a0 ≠ addr then .next (s.raise .unexpectedAddress)
      else
        need s.req.val .reqUnset fun val =>
          if ofBe16 v1 v0 ≠ val then .next (s.raise .unexpectedValue)
          else .next (s.raise .success)
  | _ => .next (s.raise .unexpectedLength)

/-- The response decoder of WRITE_COIL (R304). -/
def decodeWriteCoil (adu : Adu) (s : State) : Result := decodeSingle adu s

/-- The response decoder of WRITE_REG (R305). -/
def decodeWriteReg (adu : Adu) (s : State) : Result := decodeSingle adu s

end Sys2Proof.Machine
end

