-- ==== Sys2Proof/Machine/Receive.lean ====
section
/-! DEFINITION. The receive state machine, the deframer and the common response checks (43_receive.md). -/

namespace Sys2Proof.Machine

/-! ## The end of a frame -/

/-- `deframe()` (R238): the length test, then the CRC test; a frame that passes is an ADU of data length LEN - 4. -/
def deframe (bs : List Byte) : Except CommError Adu :=
  if bs.length < 4 then .error .frameError
  else
    let n := bs.length - 2
    if bs.drop n ≠ crcBytes (crc16 (bs.take n)) then .error .crcError
    else
      match bs.take n with
      | unit :: fc :: data => .ok { unit := unit, fc := fc, data := data }
      | _ => .error .frameError

/-- The family decoder of REQ.OP (R237). -/
def decodeResponse (op : Byte) (adu : Adu) (s : State) : Result :=
  match Op.ofByte? op with
  | some .readCoils => decodeReadCoils adu s
  | some .readDi => decodeReadDi adu s
  | some .readHr => decodeReadHr adu s
  | some .readIr => decodeReadIr adu s
  | some .writeCoil => decodeWriteCoil adu s
  | some .writeReg => decodeWriteReg adu s
  | some .writeCoils => decodeWriteCoils adu s
  | some .writeRegs => decodeWriteRegs adu s
  | some .cfgLink | some .cfgRespTo | some .cfgTxen | some .clearExc => .fault .reqOpUnknown
  | none => .fault .reqOpUnknown

/-- The capture of an exception code (R242, 60_exceptions.md R365). -/
def State.captureExc (code : Byte) (s : State) : State := { s with exc := some code }

/-- `check_common()` (R242) in its order: unit, exception, function code, each field of REQ read where the rule compares
it; then the family decoder (R237). -/
def checkResponse (adu : Adu) (s : State) : Result :=
  need s.req.unit .reqUnset fun unit =>
    if adu.unit ≠ unit then .next (s.raise .unexpectedId)
    else
      need s.req.op .reqUnset fun op =>
        if adu.fc = op + Config.excFlag then
          match adu.data with
          | [] => .next (s.raise .unexpectedLength)
          | code :: _ => .next ((s.captureExc code).raise .exceptionResponse)
        else if adu.fc ≠ op then .next (s.raise .unexpectedFunctionCode)
        else decodeResponse op adu s

/-- `end_of_frame()` (R237): deframe, common checks and decode, all in one step. The length test of the deframer comes
first (R238) and reads no byte of BUF. -/
def endOfFrame (s : State) : Result :=
  if s.len < 4 then .next (s.commFail .frameError)
  else
    need s.frameBytes .bufUnset fun bs =>
      match deframe bs with
      | .error e => .next (s.commFail e)
      | .ok adu => checkResponse adu s

/-! ## The receive states -/

/-- `O.rx_take <- true` (R234). -/
def State.takeRx (s : State) : State := { s with out := { s.out with rxTake := true } }

/-- The taken byte is stored at index LEN, LEN is raised, the silence clock restarts, and accumulation goes on (R234,
with the `FSM <- ACCUM` that R232, R233 and R235 put after it). -/
def State.storeRx (b : Byte) (now : Time) (s : State) : State :=
  { s with buf := Cells.set s.len b s.buf, len := s.len + 1, tLast := some now, fsm := .accum }

/-- `take_byte(b, I)` (R234): a byte that meets a full buffer is consumed, discarded and ends the receive with
FRAME_ERROR. -/
def takeByte (b : Byte) (now : Time) (s : State) : Result :=
  if s.len = Config.frameCap then .next (s.takeRx.commFail .frameError)
  else if Config.frameCap < s.len then .fault .bufRange
  else .next (s.takeRx.storeRx b now)

/-- The AWAIT step (R232): the byte test comes before the timeout test. -/
def awaitStep (i : Input) (s : State) : Result :=
  match i.rx with
  | some b => takeByte b i.now s
  | none =>
    need s.tStart .tStartUnset fun t0 =>
      if respExpired i.now t0 s.respTo then .next (s.commFail .timeout) else .next s

/-- The character gap is seen (R233). -/
def State.toConfirm (s : State) : State := { s with fsm := .confirm }

/-- The ACCUM step (R233): the byte test comes before the character gap. -/
def accumStep (i : Input) (s : State) : Result :=
  match i.rx with
  | some b => takeByte b i.now s
  | none =>
    need s.tLast .tLastUnset fun t0 =>
    need s.charTo .charToUnset fun charTo =>
      if charGap i.now t0 charTo then .next s.toConfirm else .next s

/-- The CONFIRM step with CONFIRM_POLICY = APPEND (R235): the frame gap comes before the byte test. -/
def confirmAppendStep (i : Input) (s : State) : Result :=
  need s.tLast .tLastUnset fun t0 =>
  need s.frameTo .frameToUnset fun frameTo =>
    if frameGap i.now t0 frameTo then
      match i.rx with
      | some _ => .next (s.commFail .frameError)
      | none => endOfFrame s
    else
      match i.rx with
      | some b => takeByte b i.now s
      | none => .next s

/-- The CONFIRM step with CONFIRM_POLICY = REJECT (R236), not the value of this hardware. -/
def confirmRejectStep (i : Input) (s : State) : Result :=
  match i.rx with
  | some _ => .next (s.commFail .frameError)
  | none =>
    need s.tLast .tLastUnset fun t0 =>
    need s.frameTo .frameToUnset fun frameTo =>
      if frameGap i.now t0 frameTo then endOfFrame s else .next s

/-- The CONFIRM step under a policy (R235, R236). -/
def confirmStep (policy : Config.ConfirmPolicy) (i : Input) (s : State) : Result :=
  match policy with
  | .append => confirmAppendStep i s
  | .reject => confirmRejectStep i s

end Sys2Proof.Machine
end

