-- ==== Sys2Proof/Machine/Dispatch.lean ====
section
/-! DEFINITION. One arm per command: the accept step of 42_framer.md R202, run while FSM is IDLE (DEDUCED, log
entry 3). -/

namespace Sys2Proof.Machine

def exec (i : Instr) (s : State) : Host.Outcome State Fault Refusal :=
  match i with
  | .readCoils unit addr qty cap => Sys2Proof.Machine.execReadCoils unit addr qty cap s
  | .readDi unit addr qty cap => Sys2Proof.Machine.execReadDi unit addr qty cap s
  | .readHr unit addr qty cap => Sys2Proof.Machine.execReadHr unit addr qty cap s
  | .readIr unit addr qty cap => Sys2Proof.Machine.execReadIr unit addr qty cap s
  | .writeCoil unit addr coil => Sys2Proof.Machine.execWriteCoil unit addr coil s
  | .writeReg unit addr value => Sys2Proof.Machine.execWriteReg unit addr value s
  | .writeCoils unit addr qty cap data => Sys2Proof.Machine.execWriteCoils unit addr qty cap data s
  | .writeRegs unit addr qty cap data => Sys2Proof.Machine.execWriteRegs unit addr qty cap data s
  | .cfgLink baud parity stop2 => Sys2Proof.Machine.execCfgLink baud parity stop2 s
  | .cfgRespTo resp => Sys2Proof.Machine.execCfgRespTo resp s
  | .cfgTxen en => Sys2Proof.Machine.execCfgTxen en s
  | .clearExc => Sys2Proof.Machine.execClearExc s

end Sys2Proof.Machine
end

