-- ==== Sys2Proof/Machine/Ports.lean ====
section
/-! DEFINITION. What the command port can read (10_state.md R55). Reading has no side effect: it is a function of the
state (20_memory.md R89). -/

namespace Sys2Proof.Machine

/-- The readable registers of the command port (R55); a register holding `none` reads as `none`. -/
structure PortView where
  busy     : Bool
  status   : Option Byte
  exc      : Option Byte
  outBits  : Cells Bool
  outRegs  : Cells U16
  cfgValid : Bool
  baud     : Option TimeReg
  parity   : Option (BitVec 2)
  stop2    : Option Bool
  bpc      : Option (BitVec 8)
  charTo   : Option TimeReg
  frameTo  : Option TimeReg
  respTo   : TimeReg
  txenEn   : Bool
deriving DecidableEq, Repr

/-- What a caller reads at the command port (R55). -/
def State.portRead (s : State) : PortView where
  busy := s.busy
  status := s.status.map Status.code
  exc := s.exc
  outBits := s.outBits
  outRegs := s.outRegs
  cfgValid := s.cfgValid
  baud := s.baud
  parity := s.parity
  stop2 := s.stop2
  bpc := s.bpc
  charTo := s.charTo
  frameTo := s.frameTo
  respTo := s.respTo
  txenEn := s.txenEn

end Sys2Proof.Machine
end

