-- ==== Sys2Proof/Machine/Poll.lean ====
section
/-! DEFINITION. What one event of the environment does to the block: the poll of 10_state.md R48 and the reset event of
70_reset_and_hazards.md R400. -/

namespace Sys2Proof.Machine

/-- The refusal a decoding error is (30_encoding.md R120, 60_exceptions.md R371). -/
def refusalOf : DecodeError → Refusal
  | .illegalOp => .illegalOp
  | .reservedBits => .reservedBits
  | .wdataMismatch => .wdataMismatch
  | .parityReserved => .parityReserved

/-- The accept step (42_framer.md R202): well-formedness first, then the command's own meaning. -/
def accept (c : Command) (s : State) : Result :=
  match decode c with
  | .error e => .refused (refusalOf e)
  | .ok i => exec i s

/-- The action of the FSM state in one poll (10_state.md R48). -/
def fsmStep (i : Input) (s : State) : Result :=
  match s.fsm with
  | .idle =>
    match i.cmd with
    | some c => accept c s
    | none => .next s
  | .txWrite => txWriteStep s
  | .txFlush => txFlushStep i s
  | .await => awaitStep i s
  | .accum => accumStep i s
  | .confirm => confirmStep Config.confirmPolicy i s

/-- One poll (10_state.md R48), for a state whose output record has been cleared. -/
def pollStep (i : Input) (s : State) : Result :=
  if i.cmd.isSome && s.busy then .refused .commandWhileBusy
  else endStep (fsmStep i s)

/-- The oldest event the environment has presented is taken. A refused state takes no step (10_state.md R51; DESIGN
CHOICE, log entry 4); a state to which the environment presents nothing has none to take (DESIGN CHOICE, log entry 1). -/
def eventStep (s : State) : Result :=
  if s.refused then .fault .refusedForGood
  else
    match s.pending with
    | [] => .fault .noInput
    | .reset :: rest => .next (s.resetEvent rest)
    | .poll i :: rest => pollStep i (s.begin rest)

end Sys2Proof.Machine
end

