-- ==== Sys2Proof/Machine/Step.lean ====
section
/-! DEFINITION. The step of the block (00_scope.md R16, 10_state.md R48), and where a command word is put for the next
step to fetch. -/

namespace Sys2Proof.Machine

/-- One step: one event of the environment. -/
def step (s : State) : Host.Outcome State Fault Refusal :=
  eventStep s

/-- The state whose very next step takes the table word `w` as its command (DESIGN CHOICE, log entry 7): a poll presenting it is put
in front of what is pending, with FSM at IDLE and REFUSED clear, without which no command is fetched. The other ports
are quiet and the time, which an accept step does not read, is 0. -/
def State.withFetchWord (s : State) (nbits w : Nat) : State :=
  { s with
    fsm := .idle
    refused := false
    pending := .poll { now := 0#Config.timeW, rx := none, txDone := false, cmd := some (tableCommand nbits w) } :: s.pending }

end Sys2Proof.Machine
end

