-- ==== Sys2Proof/Machine/Assembler.lean ====
section
/-! DEFINITION. The textual syntax of commands and its pseudo-instructions (30_encoding.md R136, R137): one line of
characters to a command (DESIGN CHOICE, log entry 16). -/

namespace Sys2Proof.Machine

/-! ## Words and numbers -/

/-- A token of a line. -/
inductive Token where
  | word (cs : List Char)
  | num (n : Nat)
  | comma | lbrace | rbrace
  | stray (c : Char)
deriving DecidableEq, Repr

/-- The value of a hexadecimal digit. -/
def hexDigit? (c : Char) : Option Nat :=
  let n := c.toNat
  if 48 ≤ n ∧ n ≤ 57 then some (n - 48)
  else if 97 ≤ n ∧ n ≤ 102 then some (n - 87)
  else if 65 ≤ n ∧ n ≤ 70 then some (n - 55)
  else none

/-- The value of a digit string in a base, from the value `acc` of what stands before it. -/
def digits? (base acc : Nat) : List Char → Option Nat
  | [] => some acc
  | c :: cs =>
    match hexDigit? c with
    | some d => if d < base then digits? base (acc * base + d) cs else none
    | none => none

/-- Numbers are decimal or `0x` hexadecimal (R136). -/
def number? (cs : List Char) : Option Nat :=
  match cs with
  | [] => none
  | ['0', 'x'] => none
  | '0' :: 'x' :: ds => digits? 16 0 ds
  | ds => digits? 10 0 ds

/-- A run of letters, digits and underscores is a number or a word. -/
def tokenOf (cs : List Char) : Token :=
  match number? cs with
  | some n => .num n
  | none => .word cs

/-- A character of a word or number. -/
def isWordChar (c : Char) : Bool := c.isAlphanum || c == '_'

/-- The token of the run read so far, which is kept in reverse. -/
def flush (run : List Char) : List Token :=
  match run with
  | [] => []
  | c :: cs => [tokenOf (c :: cs).reverse]

/-- The token of a character that is part of no word: comma, the braces (characters 123 and 125), or a stray one. -/
def punctuation (c : Char) : Token :=
  if c = ',' then .comma
  else if c.toNat = 123 then .lbrace
  else if c.toNat = 125 then .rbrace
  else .stray c

/-- The tokens of a line: blanks separate, `;` starts a comment (R136). `run` is the run being read, in reverse. -/
def tokens (run : List Char) : List Char → List Token
  | [] => flush run
  | c :: cs =>
    if isWordChar c then tokens (c :: run) cs
    else if c = ';' then flush run
    else if c.isWhitespace then flush run ++ tokens [] cs
    else flush run ++ punctuation c :: tokens [] cs

/-! ## Operands -/

/-- An operand of a line: a number, a word, or a listed sequence of numbers. -/
inductive Arg where
  | num (n : Nat)
  | word (cs : List Char)
  | list (ns : List Nat)
deriving DecidableEq, Repr

/-- The rest of a listed sequence, up to its closing brace, `acc` being the elements read, in reverse. -/
def listArg (acc : List Nat) : List Token → Option (List Nat × List Token)
  | .num n :: .comma :: ts => listArg (n :: acc) ts
  | .num n :: .rbrace :: ts => some ((n :: acc).reverse, ts)
  | _ => none

/-- One operand and the tokens after it. -/
def arg1 : List Token → Option (Arg × List Token)
  | .num n :: ts => some (.num n, ts)
  | .word w :: ts => some (.word w, ts)
  | .lbrace :: .rbrace :: ts => some (.list [], ts)
  | .lbrace :: ts => (listArg [] ts).map fun p => (.list p.1, p.2)
  | _ => none

/-- Operands separated by commas, at most `fuel` of them. -/
def args (fuel : Nat) (ts : List Token) : Option (List Arg) :=
  match fuel with
  | 0 => none
  | fuel + 1 =>
    match arg1 ts with
    | none => none
    | some (a, []) => some [a]
    | some (a, .comma :: ts) => (args fuel ts).map (a :: ·)
    | some _ => none

/-- A number that fits a field of `w` bits; one that does not is an assembly error (R136). -/
def field? (w n : Nat) : Option (BitVec w) :=
  if n < 2 ^ w then some (BitVec.ofNat w n) else none

/-- A WRITE_COILS element (R136). -/
def bit? : Nat → Option Bool
  | 0 => some false
  | 1 => some true
  | _ => none

/-- `parity` of CFG_LINK: N, E or O (R136). -/
def parity? (cs : List Char) : Option (BitVec 2) :=
  if cs = ['N'] then some 0#2
  else if cs = ['E'] then some 1#2
  else if cs = ['O'] then some 2#2
  else none

/-- `stop` of CFG_LINK: 1 or 2 (R136). -/
def stop2? : Nat → Option Bool
  | 1 => some false
  | 2 => some true
  | _ => none

/-- FMT of the pseudo-instruction `CFG_LINK baud, FMT` (R137): 8, the parity letter, the stop digit. -/
def format? (cs : List Char) : Option (BitVec 2 × Bool) :=
  match cs with
  | ['8', p, d] =>
    match parity? [p], number? [d] with
    | some p, some d => (stop2? d).map fun s => (p, s)
    | _, _ => none
  | _ => none

/-! ## Lines -/

/-- The mnemonics of R136 and R137. -/
inductive Mnemonic where
  | op (o : Op)
  | coilOn
  | coilOff
deriving DecidableEq, Repr

/-- The spelling of each operation's mnemonic (R136). -/
def Op.mnemonic : Op → List Char
  | .readCoils => ['R', 'E', 'A', 'D', '_', 'C', 'O', 'I', 'L', 'S']
  | .readDi => ['R', 'E', 'A', 'D', '_', 'D', 'I']
  | .readHr => ['R', 'E', 'A', 'D', '_', 'H', 'R']
  | .readIr => ['R', 'E', 'A', 'D', '_', 'I', 'R']
  | .writeCoil => ['W', 'R', 'I', 'T', 'E', '_', 'C', 'O', 'I', 'L']
  | .writeReg => ['W', 'R', 'I', 'T', 'E', '_', 'R', 'E', 'G']
  | .writeCoils => ['W', 'R', 'I', 'T', 'E', '_', 'C', 'O', 'I', 'L', 'S']
  | .writeRegs => ['W', 'R', 'I', 'T', 'E', '_', 'R', 'E', 'G', 'S']
  | .cfgLink => ['C', 'F', 'G', '_', 'L', 'I', 'N', 'K']
  | .cfgRespTo => ['C', 'F', 'G', '_', 'R', 'E', 'S', 'P', '_', 'T', 'O']
  | .cfgTxen => ['C', 'F', 'G', '_', 'T', 'X', 'E', 'N']
  | .clearExc => ['C', 'L', 'E', 'A', 'R', '_', 'E', 'X', 'C']

/-- The mnemonic a word spells. -/
def mnemonic? (cs : List Char) : Option Mnemonic :=
  if cs = ['C', 'O', 'I', 'L', '_', 'O', 'N'] then some .coilOn
  else if cs = ['C', 'O', 'I', 'L', '_', 'O', 'F', 'F'] then some .coilOff
  else (Op.all.find? fun o => Op.mnemonic o == cs).map .op

/-- The read commands: `unit, addr, qty [, cap]`, cap defaulting to qty (R136). -/
def readLine (mk : Byte → U16 → U16 → U16 → Instr) : List Arg → Option Instr
  | [.num u, .num a, .num q] => do return mk (← field? 8 u) (← field? 16 a) (← field? 16 q) (← field? 16 q)
  | [.num u, .num a, .num q, .num c] => do
    return mk (← field? 8 u) (← field? 16 a) (← field? 16 q) (← field? 16 c)
  | _ => none

/-- A single coil write of a given value: `unit, addr` (R137). -/
def coilLine (coil : Bool) : List Arg → Option Instr
  | [.num u, .num a] => do return .writeCoil (← field? 8 u) (← field? 16 a) coil
  | _ => none

/-- The instruction of a mnemonic and its operands (R136, R137); `none` is an assembly error. -/
def lineInstr (m : Mnemonic) (as : List Arg) : Option Instr :=
  match m with
  | .op .readCoils => readLine .readCoils as
  | .op .readDi => readLine .readDi as
  | .op .readHr => readLine .readHr as
  | .op .readIr => readLine .readIr as
  | .op .writeCoil =>
    match as with
    | [.num u, .num a, .word ['O', 'N']] => coilLine true [.num u, .num a]
    | [.num u, .num a, .word ['O', 'F', 'F']] => coilLine false [.num u, .num a]
    | _ => none
  | .op .writeReg =>
    match as with
    | [.num u, .num a, .num v] => do return .writeReg (← field? 8 u) (← field? 16 a) (← field? 16 v)
    | _ => none
  | .op .writeCoils =>
    match as with
    | [.num u, .num a, .num q, .list bs] => do
      return .writeCoils (← field? 8 u) (← field? 16 a) (← field? 16 q) (← field? 16 bs.length) (← bs.mapM bit?)
    | _ => none
  | .op .writeRegs =>
    match as with
    | [.num u, .num a, .num q, .list rs] => do
      return .writeRegs (← field? 8 u) (← field? 16 a) (← field? 16 q) (← field? 16 rs.length)
        (← rs.mapM (field? 16))
    | _ => none
  | .op .cfgLink =>
    match as with
    | [.num b, .word p, .num d] => do
      if b = 0 then none else return .cfgLink (← field? Config.toW b) (← parity? p) (← stop2? d)
    | [.num b, .word f] => do
      let (p, d) ← format? f
      if b = 0 then none else return .cfgLink (← field? Config.toW b) p d
    | _ => none
  | .op .cfgRespTo =>
    match as with
    | [.num t] => do return .cfgRespTo (← field? Config.toW t)
    | _ => none
  | .op .cfgTxen =>
    match as with
    | [.num n] => do return .cfgTxen (← bit? n)
    | _ => none
  | .op .clearExc =>
    match as with
    | [] => some .clearExc
    | _ => none
  | .coilOn => coilLine true as
  | .coilOff => coilLine false as

/-- What a line is: nothing (blank, or only a comment), a command, or an assembly error (R136). -/
inductive Line where
  | empty
  | command (c : Command)
  | error
deriving DecidableEq, Repr

/-- The assembler of one line of text (R136, R137). -/
def assembleLine (cs : List Char) : Line :=
  match tokens [] cs with
  | [] => .empty
  | .word w :: ts =>
    match mnemonic? w, (if ts = [] then some [] else args (ts.length + 1) ts) with
    | some m, some as =>
      match lineInstr m as with
      | some i => .command (encode i)
      | none => .error
    | _, _ => .error
  | _ => .error

end Sys2Proof.Machine
end

