-- ==== Sys2Proof/Safety.lean ====
section
/-! DEFINITION. What a safe run is: the invariant of the block, the state a step leaves whatever its outcome, the duties
of the transport (60_exceptions.md R380), and the relation that says BUF is internal (20_memory.md R98). -/

namespace Sys2Proof.Machine

/-! ## The invariant -/

/-- The link registers hold what CFG_LINK writes for a legal baud rate and format (10_state.md R31 to R36). -/
def State.LinkSet (s : State) : Prop :=
  ∃ (baud : TimeReg) (parity : BitVec 2) (stop2 : Bool),
    baud ≠ 0#Config.toW ∧ parity ≠ 3#2 ∧
    s.baud = some baud ∧ s.parity = some parity ∧ s.stop2 = some stop2 ∧
    s.bpc = some (BitVec.ofNat 8 (bitsPerChar parity stop2)) ∧
    s.charTo = some (BitVec.ofNat Config.toW (charTimeout (bitsPerChar parity stop2) baud.toNat)) ∧
    s.frameTo = some (BitVec.ofNat Config.toW (frameTimeout (bitsPerChar parity stop2) baud.toNat))

/-- The link registers hold no value, as at reset. -/
def State.LinkUnset (s : State) : Prop :=
  s.baud = none ∧ s.parity = none ∧ s.stop2 = none ∧ s.bpc = none ∧ s.charTo = none ∧ s.frameTo = none

/-- REQ holds a request that passed the operand checks of its family (10_state.md R44). -/
def Req.Latched (r : Req) : Prop :=
  (∃ op unit addr qty, r = readReq op unit addr qty ∧ op ∈ [0x01#8, 0x02#8] ∧
      unit ≠ 0#8 ∧ unit.toNat ≤ Config.maxUnit ∧ 1 ≤ qty.toNat ∧ qty.toNat ≤ Config.maxReadBits) ∨
  (∃ op unit addr qty, r = readReq op unit addr qty ∧ op ∈ [0x03#8, 0x04#8] ∧
      unit ≠ 0#8 ∧ unit.toNat ≤ Config.maxUnit ∧ 1 ≤ qty.toNat ∧ qty.toNat ≤ Config.maxReadRegs) ∨
  (∃ op unit addr val, r = singleReq op unit addr val ∧ op ∈ [0x05#8, 0x06#8] ∧ unit.toNat ≤ Config.maxUnit) ∨
  (∃ unit addr qty, r = multiReq 0x0F#8 unit addr qty ∧ unit.toNat ≤ Config.maxUnit ∧
      1 ≤ qty.toNat ∧ qty.toNat ≤ Config.maxWriteCoils) ∨
  (∃ unit addr qty, r = multiReq 0x10#8 unit addr qty ∧ unit.toNat ≤ Config.maxUnit ∧
      1 ≤ qty.toNat ∧ qty.toNat ≤ Config.maxWriteRegs)

/-- The FSM is in one of the two transmit states. -/
def Fsm.transmitting (f : Fsm) : Prop := f = .txWrite ∨ f = .txFlush

/-- The FSM is in one of the three receive states. -/
def Fsm.receiving (f : Fsm) : Prop := f = .await ∨ f = .accum ∨ f = .confirm

/-- BUF[0 .. LEN) is a request frame for the latched unit and function code, closed by its CRC (20_memory.md R81,
42_framer.md R203). -/
def State.HoldsRequest (s : State) : Prop :=
  ∃ unit op data, s.req.unit = some unit ∧ s.req.op = some op ∧
    s.frameBytes = some (withCrc (unit :: op :: data)) ∧ 4 ≤ data.length ∧ data.length ≤ 251

/-- The invariant of the block: what holds after reset and after every step. -/
structure State.Inv (s : State) : Prop where
  /-- A state that is still taking steps has not been refused (10_state.md R51). -/
  notRefused : s.refused = false
  /-- BUF keeps its canonical form within 256 cells (20_memory.md R90). -/
  bufWf : Memory.wf s.buf = true
  /-- OUT_BITS keeps its canonical form within 2000 elements (R90). -/
  bitsWf : Cells.wf Config.outBitsN s.outBits = true
  /-- OUT_REGS keeps its canonical form within 125 elements (R90). -/
  regsWf : Cells.wf Config.outRegsN s.outRegs = true
  /-- LEN <= FRAME_CAP (10_state.md R46). -/
  lenBound : s.len ≤ Config.frameCap
  /-- Without CFG_LINK no link register holds a value (70_reset_and_hazards.md R400). -/
  linkUnset : s.cfgValid = false → s.LinkUnset
  /-- CFG_VALID = 1 says that CFG_LINK wrote the link registers (10_state.md R31). -/
  linkSet : s.cfgValid = true → s.LinkSet
  /-- No exchange is in flight on an unconfigured link (42_framer.md R202). -/
  busyConfigured : s.fsm ≠ .idle → s.cfgValid = true
  /-- TXEN = 1 only in TX_WRITE and TX_FLUSH (10_state.md R39). -/
  txenOnly : s.txen = true → s.fsm.transmitting
  /-- In TX_WRITE and TX_FLUSH, TXEN is TXEN_EN (42_framer.md R202, R205). -/
  txenFollows : s.fsm.transmitting → s.txen = s.txenEn
  /-- An exchange in flight has a latched request (10_state.md R44). -/
  latched : s.fsm ≠ .idle → s.req.Latched
  /-- While it is being sent, the request frame stands in BUF (10_state.md R46). -/
  request : s.fsm.transmitting → s.HoldsRequest
  /-- A receive is always for a unicast unit (42_framer.md R205). -/
  unicast : s.fsm.receiving → s.req.unit ≠ some 0#8
  /-- In a receive, the bytes received stand in BUF[0 .. LEN) (43_receive.md R234). -/
  received : s.fsm.receiving → s.frameBytes.isSome = true
  /-- AWAIT has its start stamp and no byte (42_framer.md R205). -/
  awaiting : s.fsm = .await → s.len = 0 ∧ s.tStart.isSome = true
  /-- ACCUM and CONFIRM have at least one byte and its stamp (43_receive.md R234). -/
  accumulating : s.fsm = .accum ∨ s.fsm = .confirm → 1 ≤ s.len ∧ s.tLast.isSome = true
  /-- The TXEN output is TXEN (10_state.md R48). -/
  outTxen : s.out.txen = s.txen
  /-- O.done comes with IDLE and a STATUS (60_exceptions.md R366). -/
  outDone : s.out.done = true → s.fsm = .idle ∧ s.status.isSome = true
  /-- No rule raises UNKNOWN_COMM_ERROR (60_exceptions.md R363). -/
  noUnknown : s.status ≠ some .unknownCommError

/-- The state a step leaves: the next state, the refused state of 60_exceptions.md R371, or the state as it was where
the model has no step. -/
def State.after (s : State) : State :=
  match step s with
  | .next t => t
  | .refused _ => s.markRefused
  | .fault _ => s

/-! ## The transport (60_exceptions.md R380)

The step takes every input record; what the transport owes the block is said here, for claims to assume (DESIGN CHOICE,
log entry 13). -/

/-- The transport between two polls. -/
structure Transport where
  /-- The received bytes it holds, in line order, oldest first. -/
  held : List Byte
  /-- The oldest of them has been offered and not been taken. -/
  offered : Bool
  /-- A write has been handed to it. -/
  written : Bool
  /-- What of the writes has not left the line yet, in order. -/
  unsent : List Byte
  /-- The level of the line driver. -/
  driver : Bool
deriving DecidableEq, Repr

/-- The input records a transport that keeps its duties may present (R380). The byte offered is the oldest it holds, and
once offered it is offered again until it is taken. A flush is reported only when a write has been handed over and its
last byte has left the line. Whether the report is repeated in polls after the first, which R92 of 20_memory.md, a
level, and R380 leave open, is free: `txDone` may then be true or false (DESIGN CHOICE, log entry 19). -/
def Transport.MayPresent (tr : Transport) (i : Input) : Prop :=
  (i.rx = none ∨ i.rx = tr.held.head?) ∧
  (tr.offered = true → i.rx = tr.held.head?) ∧
  (i.txDone = true → tr.written = true ∧ tr.unsent = [])

/-- What the transport still owes the line after a step: the bytes of a new write come last. -/
def Transport.owed (tr : Transport) (o : Output) : List Byte := tr.unsent ++ o.txWrite.getD []

/-- The bytes put on the line in the time after a step in which `left` of them leave: exactly those written, in order
(R380). -/
def Transport.line (tr : Transport) (o : Output) (left : Nat) : List Byte := (tr.owed o).take left

/-- The transport at the next poll (R380, 20_memory.md R89): a byte taken is dropped, a byte offered and not taken is
kept, newly arrived bytes come last, `left` bytes of what was written leave, and the line driver follows TXEN. -/
def Transport.next (tr : Transport) (i : Input) (o : Output) (arrived : List Byte) (left : Nat) : Transport where
  held := (if o.rxTake then tr.held.tail else tr.held) ++ arrived
  offered := i.rx.isSome && !o.rxTake
  written := tr.written || o.txWrite.isSome
  unsent := (tr.owed o).drop left
  driver := o.txen

/-- The time duty (R380): two polls at true times `t` and `t'`, in microseconds, less than 2^32 apart. -/
def TimeDuty (t t' : Nat) : Prop := t ≤ t' ∧ t' - t < 2 ^ Config.timeW

/-- The value of the time base at a true time (41_timing.md R187). -/
def nowAt (t : Nat) : Time := BitVec.ofNat Config.timeW t

/-- A state to which the environment presents one poll. -/
def State.offeredPoll (i : Input) (s : State) : State := { s with pending := [.poll i] }

/-- The elapsed times, in microseconds, at which the timeout tests of a state come true (41_timing.md R189): `>=` for
RESP_TO and FRAME_TO, `>` for CHAR_TO. -/
def State.timeouts (s : State) : List Nat :=
  s.respTo.toNat :: (s.charTo.toList.map (·.toNat + 1) ++ s.frameTo.toList.map (·.toNat))

/-- Every duty of the transport (R380) over an unending run of polls: `s k`, `tr k` and `time k` are the block, the transport and
the true time in microseconds at poll `k`, `inp k` its input record. A claim that assumes every duty assumes this. -/
structure DutiesKept (s : Nat → State) (tr : Nat → Transport) (time : Nat → Nat) (inp : Nat → Input) : Prop where
  /-- The block steps at every poll. -/
  runs : ∀ k, step ((s k).offeredPoll (inp k)) = .next (s (k + 1))
  /-- Read and flush, at each poll. -/
  presents : ∀ k, (tr k).MayPresent (inp k)
  /-- Read, write, flush and TXEN, from each poll to the next. -/
  goesOn : ∀ k, ∃ arrived left, tr (k + 1) = (tr k).next (inp k) (s (k + 1)).out arrived left
  /-- The flush of every write is eventually reported. -/
  flushReported : ∀ k, (s (k + 1)).out.txWrite.isSome = true → ∃ m, k < m ∧ (inp m).txDone = true
  /-- `now` advances by the true elapsed time, and polls are less than 2^32 microseconds apart. -/
  timed : ∀ k, (inp k).now = nowAt (time k) ∧ TimeDuty (time k) (time (k + 1))
  /-- Fairness: counted from any poll, every timeout in force is eventually reached, at a poll that comes before the
  elapsed time wraps. -/
  fair : ∀ k, ∀ d ∈ (s k).timeouts, ∃ m, k ≤ m ∧ d ≤ time m - time k ∧ time m - time k < 2 ^ Config.timeW

/-! ## BUF is internal (20_memory.md R98) -/

/-- Two states that agree in every register and port, and in the bytes BUF[0 .. LEN) of an exchange in flight. What BUF
holds beyond that may differ: a shared buffer and a fresh one per exchange are such a pair. -/
structure State.SameButBuf (s t : State) : Prop where
  rest : t = { s with buf := t.buf }
  live : s.fsm ≠ .idle → ∀ a, a < s.len → Cells.get a t.buf = Cells.get a s.buf

/-- Two results with the same ending: the same fault, the same refusal, or next states that agree but for BUF. -/
def Result.SameButBuf (r q : Result) : Prop :=
  match r, q with
  | .next s, .next t => s.SameButBuf t
  | .fault f, .fault g => f = g
  | .refused f, .refused g => f = g
  | _, _ => False

end Sys2Proof.Machine
end

