-- ==== Sys2Proof/Certificates/Slice0/Obligations.lean ====
section
/-! DEFINITION. The statements for the provers, in the order of OBLIGATIONS.json. Each docstring names the rules of
spec/ it rests on. -/

open Sys2Proof Sys2Proof.Machine

namespace Sys2Proof.Machine

/-! ## What the statements assume of a poll, and what they say of its end -/

/-- The next event is the poll `i`, and the state takes steps. -/
def State.Polls (s : State) (i : Input) (rest : List Event) : Prop :=
  s.refused = false ∧ s.pending = .poll i :: rest

/-- The OP values of 30_encoding.md R111, each with the reserved bits of its format (R112 to R119). -/
def commandFormats : List (Byte × Word) :=
  [(0x01#8, 0x0000000000000000#64), (0x02#8, 0x0000000000000000#64), (0x03#8, 0x0000000000000000#64),
   (0x04#8, 0x0000000000000000#64), (0x05#8, 0xFFFFFFFE00000000#64), (0x06#8, 0xFFFF000000000000#64),
   (0x0F#8, 0x0000000000000000#64), (0x10#8, 0x0000000000000000#64), (0x40#8, 0xFFFFF80000000000#64),
   (0x41#8, 0xFFFFFF0000000000#64), (0x42#8, 0xFFFFFFFFFFFFFE00#64), (0x43#8, 0xFFFFFFFFFFFFFF00#64)]

/-- WDATA has the shape and the length the format of `op` requires (30_encoding.md R112 to R119). -/
def WDataMatches (op : Byte) (c : Command) : Prop :=
  if op = 0x0F#8 then ∃ b, c.wdata = .bits b ∧ b.length = (c.word.extractLsb' 48 16).toNat
  else if op = 0x10#8 then ∃ r, c.wdata = .regs r ∧ r.length = (c.word.extractLsb' 48 16).toNat
  else c.wdata = .none

/-- Every register and port of 70_reset_and_hazards.md R400 at its reset value, and what the command port then reads
(10_state.md R55). -/
def State.AtReset (t : State) : Prop :=
  t.cfgValid = false ∧ t.baud = none ∧ t.parity = none ∧ t.stop2 = none ∧ t.bpc = none ∧ t.charTo = none ∧
  t.frameTo = none ∧ t.respTo = 100000#32 ∧ t.txenEn = false ∧ t.txen = false ∧ t.fsm = .idle ∧ t.status = none ∧
  t.exc = none ∧ t.req = { op := none, unit := none, addr := none, qty := none, val := none } ∧
  (∀ a, Cells.get a t.buf = none) ∧ t.len = 0 ∧ t.tStart = none ∧ t.tLast = none ∧
  (∀ a, Cells.get a t.outBits = none) ∧ (∀ a, Cells.get a t.outRegs = none) ∧
  t.out = { rxTake := false, txWrite := none, txen := false, done := false } ∧
  t.portRead =
    { busy := false, status := none, exc := none, outBits := [], outRegs := [], cfgValid := false, baud := none,
      parity := none, stop2 := none, bpc := none, charTo := none, frameTo := none, respTo := 100000#32,
      txenEn := false }

/-- The exchange accepted from `s` with a request latch and request bytes (42_framer.md R202, R203): EXC cleared, REQ
latched, BUF holding the bytes and their CRC low byte first with every other cell as it was, LEN the frame's length,
TXEN driven to TXEN_EN, FSM at TX_WRITE, and nothing else changed. -/
def State.Accepted (s t : State) (req : Req) (bytes : List Byte) : Prop :=
  t = { s with
        exc := none, req := req, buf := t.buf, len := bytes.length + 2, txen := s.txenEn, fsm := .txWrite } ∧
  ∀ a, Cells.get a t.buf =
    if a < bytes.length + 2 then
      (bytes ++ [(crc16 bytes).extractLsb' 0 8, (crc16 bytes).extractLsb' 8 8])[a]?
    else Cells.get a s.buf

/-- The state after a poll that ends the command with a status and changes nothing else (60_exceptions.md R366). -/
def State.endedBy (s : State) (rest : List Event) (st : Status) : State :=
  { s with
    pending := rest, status := some st, fsm := .idle
    out := { rxTake := false, txWrite := none, txen := s.txen, done := true } }

/-- A poll that ends the response frame `bs`: in CONFIRM, no command and no byte offered, silence at least FRAME_TO
(43_receive.md R235, R237). -/
def State.AtFrameEnd (s : State) (i : Input) (rest : List Event) (bs : List Byte) : Prop :=
  s.Polls i rest ∧ i.cmd = none ∧ i.rx = none ∧ s.fsm = .confirm ∧
  (∃ t0 ft, s.tLast = some t0 ∧ s.frameTo = some ft ∧ ft.toNat ≤ (elapsed i.now t0).toNat) ∧
  Cells.load 0 s.len s.buf = some bs

/-- The FSM is where an offered byte is taken (43_receive.md R232, R233, R235). -/
def State.TakesByte (s : State) (i : Input) : Prop :=
  s.fsm = .await ∨ s.fsm = .accum ∨
  (s.fsm = .confirm ∧ ∃ t0 ft, s.tLast = some t0 ∧ s.frameTo = some ft ∧ ¬ ft.toNat ≤ (elapsed i.now t0).toNat)

/-- The polls that offer a byte sequence, one byte a poll, at given times. -/
def bytePolls (bs : List Byte) (times : List Time) : List Event :=
  (bs.zip times).map fun p => .poll { now := p.2, rx := some p.1, txDone := false, cmd := none }

/-- A poll with nothing offered. -/
def quietPoll (now : Time) : Event :=
  .poll { now := now, rx := none, txDone := false, cmd := none }

end Sys2Proof.Machine

/-! ## Encoding -/

/-- Decoding the command of a well-formed instruction gives it back, with every operand (30_encoding.md R110 to
R119). -/
def Obligations.EncodedInstructionDecodesToItself : Prop :=
  ∀ i : Instr, wellFormed i = true → decode (encode i) = .ok i

/-- A command that decodes is the command of a well-formed instruction: no bit of its word and nothing of its WDATA is
dropped (30_encoding.md R110 to R120). -/
def Obligations.DecodedCommandIsTheEncodingOfItsInstruction : Prop :=
  ∀ (c : Command) (i : Instr), decode c = .ok i → wellFormed i = true ∧ encode i = c

/-- Words of every format, written out from 30_encoding.md R112 to R119 (95_test_vectors.md §4), decode to what they
stand for. -/
def Obligations.WordsOfTheSpecDecode : Prop :=
  decode ⟨0x0025002500130101#64, .none⟩ = .ok (.readCoils 0x01#8 0x0013#16 37#16 37#16) ∧
  decode ⟨0x000A000A00000202#64, .none⟩ = .ok (.readDi 0x02#8 0x0000#16 10#16 10#16) ∧
  decode ⟨0x0003000400001103#64, .none⟩ = .ok (.readHr 17#8 0x0000#16 4#16 3#16) ∧
  decode ⟨0x0001000100080104#64, .none⟩ = .ok (.readIr 0x01#8 0x0008#16 1#16 1#16) ∧
  decode ⟨0x0000000100050305#64, .none⟩ = .ok (.writeCoil 0x03#8 0x0005#16 true) ∧
  decode ⟨0x0000000300010106#64, .none⟩ = .ok (.writeReg 0x01#8 0x0001#16 0x0003#16) ∧
  decode ⟨0x000300020013010F#64, .bits [true, false, true]⟩
    = .ok (.writeCoils 0x01#8 0x0013#16 2#16 3#16 [true, false, true]) ∧
  decode ⟨0x0002000200010110#64, .regs [0x000A#16, 0x0102#16]⟩
    = .ok (.writeRegs 0x01#8 0x0001#16 2#16 2#16 [0x000A#16, 0x0102#16]) ∧
  decode ⟨0x00000100004B0040#64, .none⟩ = .ok (.cfgLink 19200#32 1#2 false) ∧
  decode ⟨0x000000000186A041#64, .none⟩ = .ok (.cfgRespTo 100000#32) ∧
  decode ⟨0x0000000000000142#64, .none⟩ = .ok (.cfgTxen true) ∧
  decode ⟨0x0000000000000043#64, .none⟩ = .ok .clearExc

/-- The four checks of a command in the order of 30_encoding.md R120; a command that passes them decodes. -/
def Obligations.MalformedCommandIsRefusedInOrder : Prop :=
  ∀ (s : State) (i : Input) (rest : List Event) (c : Command),
    s.Polls i rest → s.fsm = .idle → i.cmd = some c →
    (c.word.extractLsb' 0 8 ∉ commandFormats.map Prod.fst → step s = .refused .illegalOp) ∧
    ∀ f ∈ commandFormats, c.word.extractLsb' 0 8 = f.1 →
      (c.word &&& f.2 ≠ 0#64 → step s = .refused .reservedBits) ∧
      (c.word &&& f.2 = 0#64 → ¬ WDataMatches f.1 c → step s = .refused .wdataMismatch) ∧
      (c.word &&& f.2 = 0#64 → WDataMatches f.1 c → f.1 = 0x40#8 → c.word.extractLsb' 40 2 = 3#2 →
        step s = .refused .parityReserved) ∧
      (c.word &&& f.2 = 0#64 → WDataMatches f.1 c → ¬ (f.1 = 0x40#8 ∧ c.word.extractLsb' 40 2 = 3#2) →
        ∃ ins, decode c = .ok ins)

/-- Every line the assembler takes gives a command that decodes to an instruction whose command it is (30_encoding.md
R136, R137). -/
def Obligations.AssembledLineIsADecodableCommand : Prop :=
  ∀ (line : List Char) (c : Command), assembleLine line = .command c → ∃ i, decode c = .ok i ∧ encode i = c

/-- The numbers of STATUS (30_encoding.md R132) and of FSM (10_state.md R40). -/
def Obligations.StatusAndFsmNumbers : Prop :=
  [Status.success, .invalidId, .invalidQuantity, .invalidBuffer, .responseTimeout, .frameError, .crcError,
    .unknownCommError, .unexpectedId, .unexpectedFunctionCode, .unexpectedLength, .unexpectedByteCount,
    .unexpectedAddress, .unexpectedValue, .unexpectedQuantity, .exceptionResponse].map Status.code
    = (List.range 16).map (BitVec.ofNat 8) ∧
  [Fsm.idle, .txWrite, .txFlush, .await, .accum, .confirm].map Fsm.code = (List.range 6).map (BitVec.ofNat 3)

/-! ## The step -/

/-- A command that decodes is run by its meaning: the poll is consumed, the output record cleared, `exec` runs, and TXEN
is driven on the output record; no command faults (10_state.md R48, 42_framer.md R202). -/
def Obligations.StepRunsTheDecodedInstruction : Prop :=
  ∀ (s : State) (i : Input) (rest : List Event) (c : Command) (ins : Instr),
    s.Polls i rest → s.fsm = .idle → i.cmd = some c → decode c = .ok ins →
    let s0 := { s with pending := rest, out := { rxTake := false, txWrite := none, txen := false, done := false } }
    (∀ t, exec ins s0 = .next t → step s = .next { t with out := { t.out with txen := t.txen } }) ∧
    (∀ f, exec ins s0 ≠ .fault f) ∧
    (∀ r, exec ins s0 = .refused r → step s = .refused r)

/-- A command offered while FSM is not IDLE is refused, whatever it is (10_state.md R48, 70_reset_and_hazards.md
R404). -/
def Obligations.CommandWhileBusyIsRefused : Prop :=
  ∀ (s : State) (i : Input) (rest : List Event) (c : Command),
    s.Polls i rest → s.fsm ≠ .idle → i.cmd = some c → step s = .refused .commandWhileBusy

/-- In IDLE without a command nothing changes: an offered byte is not consumed and tx_done is ignored (10_state.md
R48). -/
def Obligations.IdlePollWithoutCommandChangesNothing : Prop :=
  ∀ (s : State) (i : Input) (rest : List Event), s.Polls i rest → s.fsm = .idle → i.cmd = none →
    step s = .next
      { s with pending := rest, out := { rxTake := false, txWrite := none, txen := s.txen, done := false } }

/-- Reset puts every register at its reset value, drives no output event and keeps REFUSED (70_reset_and_hazards.md
R400, R401). That reset is an event of the schedule is the model's reading (log entry 6). -/
def Obligations.ResetGivesTheResetValues : Prop :=
  State.reset.AtReset ∧
  (∀ (s : State) (rest : List Event), s.refused = false → s.pending = .reset :: rest →
    ∃ t, step s = .next t ∧ t.AtReset ∧ t.refused = s.refused ∧ t.pending = rest) ∧
  (∀ (s : State) (rest : List Event), (s.resetEvent rest).AtReset ∧ (s.resetEvent rest).refused = s.refused)

/-- A refusal sets REFUSED and changes nothing else, and a state with REFUSED = 1 takes no further step, whatever is
presented to it (10_state.md R51, 60_exceptions.md R371). The fault's name is the model's (log entry 4). -/
def Obligations.RefusedStateTakesNoStep : Prop :=
  (∀ s : State, s.refused = true → step s = .fault .refusedForGood) ∧
  (∀ (s : State) (r : Refusal), step s = .refused r →
    s.after = { s with refused := true } ∧ step s.after = .fault .refusedForGood)

/-! ## Invariants and whole-machine rules -/

/-- The invariant holds after reset. -/
def Obligations.InvariantHoldsAtReset : Prop := State.reset.Inv

/-- Every step keeps the invariant (10_state.md R30 to R51, 20_memory.md R90). -/
def Obligations.StepKeepsTheInvariant : Prop :=
  ∀ s t : State, s.Inv → step s = .next t → t.Inv

/-- From a state that meets the invariant no step faults while the environment presents an event: no register or byte
that holds `none` is used and no index is out of range (20_memory.md R90, 93_implementation_defined.md I14, I15). -/
def Obligations.NoStepFaultsWithinTheInvariant : Prop :=
  ∀ (s : State) (f : Fault), s.Inv → s.pending ≠ [] → step s ≠ .fault f

/-- The refusals are the closed list of 60_exceptions.md R371, each raised only by its own cause. -/
def Obligations.RefusalReasonsAreClosed : Prop :=
  ∀ (s : State) (r : Refusal), step s = .refused r →
    ∃ i rest c, s.Polls i rest ∧ i.cmd = some c ∧
      ((s.fsm ≠ .idle ∧ r = .commandWhileBusy) ∨
       (s.fsm = .idle ∧ decode c = .error .illegalOp ∧ r = .illegalOp) ∨
       (s.fsm = .idle ∧ decode c = .error .reservedBits ∧ r = .reservedBits) ∨
       (s.fsm = .idle ∧ decode c = .error .wdataMismatch ∧ r = .wdataMismatch) ∨
       (s.fsm = .idle ∧ decode c = .error .parityReserved ∧ r = .parityReserved) ∨
       (s.fsm = .idle ∧ (∃ parity stop2, decode c = .ok (.cfgLink 0#32 parity stop2)) ∧ r = .baudZero) ∨
       (s.fsm = .idle ∧ (∃ ins, decode c = .ok ins ∧ ins.op.isExchange = true) ∧ s.cfgValid = false ∧
         r = .notConfigured))

/-- The FSM moves only along the rows of 43_receive.md R245, and an exchange in flight comes to IDLE exactly in the
step that drives O.done. -/
def Obligations.FsmTransitionsAreClosed : Prop :=
  ∀ (s t : State) (i : Input) (rest : List Event), s.Polls i rest → step s = .next t →
    (s.fsm, t.fsm) ∈
      [(Fsm.idle, Fsm.idle), (.idle, .txWrite), (.txWrite, .txFlush), (.txFlush, .txFlush), (.txFlush, .idle),
       (.txFlush, .await), (.await, .accum), (.await, .idle), (.await, .await), (.accum, .idle), (.accum, .accum),
       (.accum, .confirm), (.confirm, .idle), (.confirm, .accum), (.confirm, .confirm)] ∧
    (s.fsm ≠ .idle → (t.fsm = .idle ↔ t.out.done = true)) ∧
    (s.fsm = .idle → t.out.done = true → t.fsm = .idle)

/-- Every frame handed to the transport is a frame of at most 255 bytes whose CRC is right and which carries the latched
unit and function code, and TXEN is asserted with it when the control is in use (42_framer.md R203, R204,
30_encoding.md R124). -/
def Obligations.TransmittedFrameIsValid : Prop :=
  ∀ (s t : State) (bs : List Byte), s.Inv → step s = .next t → t.out.txWrite = some bs →
    s.fsm = .txWrite ∧ t.fsm = .txFlush ∧ t.out.txen = s.txenEn ∧ bs.length ≤ 255 ∧
    ∃ unit op data, s.req.unit = some unit ∧ s.req.op = some op ∧
      deframe bs = .ok { unit := unit, fc := op, data := data }

/-- A byte is consumed only in AWAIT, ACCUM and CONFIRM and only if one is offered, so in every other step a transport that
keeps its duties still holds every byte, and one it offered has to be offered again (43_receive.md R231, 20_memory.md
R89, 60_exceptions.md R380, 70_reset_and_hazards.md R407). -/
def Obligations.ByteIsTakenOnlyInAReceive : Prop :=
  ∀ (s t : State) (i : Input) (rest : List Event), s.Polls i rest → step s = .next t →
    (t.out.rxTake = true → s.fsm.receiving ∧ i.rx.isSome = true) ∧
    (¬ s.fsm.receiving → ∀ (tr : Transport) (arrived : List Byte) (left : Nat),
      (tr.next i t.out arrived left).held = tr.held ++ arrived ∧
      ((tr.next i t.out arrived left).offered = true ↔ i.rx.isSome = true))

/-- The configuration registers change only when their command is accepted in IDLE (10_state.md R31 to R38, 47_config.md
R344, 41_timing.md R184, R190). -/
def Obligations.ConfigurationChangesOnlyByItsCommand : Prop :=
  ∀ (s t : State) (i : Input) (rest : List Event), s.Polls i rest → step s = .next t →
    ((t.cfgValid = s.cfgValid ∧ t.baud = s.baud ∧ t.parity = s.parity ∧ t.stop2 = s.stop2 ∧ t.bpc = s.bpc ∧
        t.charTo = s.charTo ∧ t.frameTo = s.frameTo) ∨
      (s.fsm = .idle ∧ ∃ c baud parity stop2, i.cmd = some c ∧ decode c = .ok (.cfgLink baud parity stop2))) ∧
    (t.respTo = s.respTo ∨
      (s.fsm = .idle ∧ ∃ c, i.cmd = some c ∧ decode c = .ok (.cfgRespTo t.respTo))) ∧
    (t.txenEn = s.txenEn ∨
      (s.fsm = .idle ∧ ∃ c, i.cmd = some c ∧ decode c = .ok (.cfgTxen t.txenEn)))

/-- STATUS is written exactly in the step that drives O.done, and never with UNKNOWN_COMM_ERROR (10_state.md R42,
60_exceptions.md R363, R366). -/
def Obligations.StatusIsWrittenExactlyAtTheEnd : Prop :=
  ∀ (s t : State) (i : Input) (rest : List Event), s.Polls i rest → step s = .next t →
    (t.out.done = false → t.status = s.status) ∧
    (t.out.done = true → t.fsm = .idle ∧ ∃ st, t.status = some st ∧ st ≠ .unknownCommError)

/-- OUT_BITS and OUT_REGS change only in the step that ends a read with SUCCESS, and each only for its own function
codes (44_reads.md R278, 10_state.md R49, R50). -/
def Obligations.OutArraysAreWrittenOnlyOnReadSuccess : Prop :=
  ∀ (s t : State) (i : Input) (rest : List Event), s.Polls i rest → step s = .next t →
    (t.outBits = s.outBits ∨
      (s.fsm = .confirm ∧ t.out.done = true ∧ t.status = some .success ∧
        (s.req.op = some 0x01#8 ∨ s.req.op = some 0x02#8))) ∧
    (t.outRegs = s.outRegs ∨
      (s.fsm = .confirm ∧ t.out.done = true ∧ t.status = some .success ∧
        (s.req.op = some 0x03#8 ∨ s.req.op = some 0x04#8)))

/-- EXC is cleared only by CLEAR_EXC or an accepted exchange, and set only by an exception response (10_state.md R43,
60_exceptions.md R365). -/
def Obligations.ExcChangesOnlyByItsRules : Prop :=
  ∀ (s t : State) (i : Input) (rest : List Event), s.Polls i rest → step s = .next t →
    t.exc = s.exc ∨
    (t.exc = none ∧ s.fsm = .idle ∧
      (t.fsm = .txWrite ∨ ∃ c, i.cmd = some c ∧ decode c = .ok .clearExc)) ∨
    (t.exc.isSome = true ∧ s.fsm = .confirm ∧ t.out.done = true ∧ t.status = some .exceptionResponse)

/-- BUF is internal: two states that differ only in BUF bytes no exchange in flight has written (a shared buffer and a
fresh one) end each step alike, in every register and at every port (20_memory.md R98, R97). -/
def Obligations.BufferContentsAreNotObservable : Prop :=
  ∀ s t : State, s.SameButBuf t → Result.SameButBuf (step s) (step t)

/-- From a receive state of a run, silence ends the exchange: in AWAIT one quiet poll once RESP_TO has elapsed, in ACCUM
two quiet polls and in CONFIRM one once FRAME_TO has elapsed (43_receive.md R246, R245). -/
def Obligations.ReceiveEndsOnSilence : Prop :=
  ∀ (s : State) (n1 n2 : Time) (rest : List Event), s.Inv → s.pending = quietPoll n1 :: quietPoll n2 :: rest →
    (∀ t0, s.fsm = .await → s.tStart = some t0 → s.respTo.toNat ≤ (elapsed n1 t0).toNat →
      ∃ t, step s = .next t ∧ t.fsm = .idle ∧ t.out.done = true ∧ t.status = some .responseTimeout) ∧
    (∀ t0 ft, s.fsm = .accum → s.tLast = some t0 → s.frameTo = some ft → ft.toNat ≤ (elapsed n1 t0).toNat →
      ft.toNat ≤ (elapsed n2 t0).toNat →
      ∃ t u, step s = .next t ∧ t.fsm = .confirm ∧ t.out.done = false ∧
        step t = .next u ∧ u.fsm = .idle ∧ u.out.done = true ∧ u.status.isSome = true) ∧
    (∀ t0 ft, s.fsm = .confirm → s.tLast = some t0 → s.frameTo = some ft → ft.toNat ≤ (elapsed n1 t0).toNat →
      ∃ t, step s = .next t ∧ t.fsm = .idle ∧ t.out.done = true ∧ t.status.isSome = true)

/-- The total translation of transport errors, and the end of a command: STATUS written, O.done true, FSM IDLE, and
nothing else changed (60_exceptions.md R362, R363, R366). -/
def Obligations.TransportErrorsAreTranslatedAndRaised : Prop :=
  ∀ s : State,
    (∀ p ∈ [(CommError.timeout, Status.responseTimeout), (.frameError, .frameError), (.crcError, .crcError),
        (.other, .unknownCommError)], s.commFail p.1 = s.raise p.2) ∧
    ∀ st : Status, s.raise st = { s with status := some st, fsm := .idle, out := { s.out with done := true } }

/-! ## The CRC engine -/

/-- The worked values of 40_crc.md R167. -/
def Obligations.CrcWorkedValues : Prop :=
  crc16 [] = 0xFFFF#16 ∧ crc16 [0x00#8] = 0x40BF#16 ∧ crc16 [0x01#8] = 0x807E#16 ∧ crc16 [0xFF#8] = 0x00FF#16 ∧
  crc16 [0x31#8, 0x32#8, 0x33#8, 0x34#8, 0x35#8, 0x36#8, 0x37#8, 0x38#8, 0x39#8] = 0x4B37#16 ∧
  crc16 [0x11#8, 0x03#8, 0x00#8, 0x00#8, 0x00#8, 0x04#8] = 0x9946#16 ∧
  withCrc [0x11#8, 0x03#8, 0x00#8, 0x00#8, 0x00#8, 0x04#8]
    = [0x11#8, 0x03#8, 0x00#8, 0x00#8, 0x00#8, 0x04#8, 0x46#8, 0x99#8]

/-- The CRC over a sequence and its own CRC bytes is 0 (40_crc.md R166 (b)). -/
def Obligations.CrcResidueIsZero : Prop :=
  ∀ s : List Byte, crc16 (s ++ [(crc16 s).extractLsb' 0 8, (crc16 s).extractLsb' 8 8]) = 0#16

/-- A frame with its computed CRC passes the CRC test, and after a change of any one byte, in particular of any one bit,
in the sequence or in the CRC, it does not (40_crc.md R166 (c)). -/
def Obligations.ChangedByteFailsTheCrcTest : Prop :=
  ∀ s : List Byte,
    (∀ bs, bs = withCrc s → bs.drop s.length = crcBytes (crc16 (bs.take s.length))) ∧
    (∀ (k : Nat) (d : Byte) (bs : List Byte), k < s.length + 2 → d ≠ 0#8 →
      bs = (withCrc s).modify k (· ^^^ d) → bs.drop s.length ≠ crcBytes (crc16 (bs.take s.length)))

/-! ## The timing model -/

/-- CFG_LINK completes for every baud rate but 0 and every legal format, and writes the link registers with the
thresholds of 41_timing.md R180 to R183, exactly and without overflow; nothing else changes (47_config.md R340). -/
def Obligations.CfgLinkWritesTheLinkAndThresholds : Prop :=
  ∀ (s : State) (baud : TimeReg) (parity : BitVec 2) (stop2 : Bool), baud ≠ 0#32 → parity ≠ 3#2 →
    let n : Nat := if parity = 0#2 then (if stop2 then 11 else 10) else (if stop2 then 12 else 11)
    let b := baud.toNat
    ∃ ct ft : TimeReg,
      ct.toNat = (if b ≤ 19200 then n * 2500000 / b else n * 1000000 / b + 750) ∧
      ft.toNat = (if b ≤ 19200 then n * 4500000 / b else n * 1000000 / b + 1750) ∧
      exec (.cfgLink baud parity stop2) s = .next
        { s with
          baud := some baud, parity := some parity, stop2 := some stop2, bpc := some (BitVec.ofNat 8 n),
          charTo := some ct, frameTo := some ft, cfgValid := true }

/-- After CFG_LINK, FRAME_TO > CHAR_TO > 0 (41_timing.md R185). -/
def Obligations.ThresholdsAreOrdered : Prop :=
  ∀ (s t : State) (baud : TimeReg) (parity : BitVec 2) (stop2 : Bool),
    exec (.cfgLink baud parity stop2) s = .next t →
    ∃ ct ft, t.charTo = some ct ∧ t.frameTo = some ft ∧ 0#32 < ct ∧ ct < ft

/-- For one format, CHAR_TO and FRAME_TO are non-increasing in BAUD, across the regime change too (41_timing.md
R186). -/
def Obligations.ThresholdsAreNonIncreasingInBaud : Prop :=
  ∀ (s t t' : State) (baud baud' : TimeReg) (parity : BitVec 2) (stop2 : Bool), baud ≤ baud' →
    exec (.cfgLink baud parity stop2) s = .next t → exec (.cfgLink baud' parity stop2) s = .next t' →
    ∃ ct ft ct' ft', t.charTo = some ct ∧ t.frameTo = some ft ∧ t'.charTo = some ct' ∧ t'.frameTo = some ft' ∧
      ct' ≤ ct ∧ ft' ≤ ft

/-- Elapsed time is taken mod 2^32, and the three timeout tests compare it with their threshold (41_timing.md R187,
R189). -/
def Obligations.TimeoutTestsCompareModularElapsedTime : Prop :=
  ∀ (now : Time) (t0 x : TimeReg),
    (elapsed now t0).toNat = (now.toNat + (2 ^ 32 - t0.toNat)) % 2 ^ 32 ∧
    (respExpired now t0 x = true ↔ x.toNat ≤ (now.toNat + (2 ^ 32 - t0.toNat)) % 2 ^ 32) ∧
    (charGap now t0 x = true ↔ x.toNat < (now.toNat + (2 ^ 32 - t0.toNat)) % 2 ^ 32) ∧
    (frameGap now t0 x = true ↔ x.toNat ≤ (now.toNat + (2 ^ 32 - t0.toNat)) % 2 ^ 32)

/-- Under the transport's time duty the elapsed time is the true interval, across a wrap of the clock too (41_timing.md
R187, 70_reset_and_hazards.md R405, 60_exceptions.md R380). -/
def Obligations.ElapsedIsTheTrueInterval : Prop :=
  ∀ t t' : Nat, TimeDuty t t' → (elapsed (nowAt t') (nowAt t)).toNat = t' - t

/-! ## The configuration commands -/

/-- CFG_LINK is refused for PARITY = 3 and for BAUD = 0. The BAUD = 0 clause is 47_config.md R340. The PARITY = 3 clause is
about `exec` on an instruction no command decodes to, and is the model's choice (DESIGN CHOICE, log entry 8); the
refusal of the command itself (30_encoding.md R120) is MalformedCommandIsRefusedInOrder. -/
def Obligations.CfgLinkRefusesReservedParityAndZeroBaud : Prop :=
  ∀ (s : State) (baud : TimeReg) (parity : BitVec 2) (stop2 : Bool),
    exec (.cfgLink baud 3#2 stop2) s = .refused .parityReserved ∧
    (parity ≠ 3#2 → exec (.cfgLink 0#32 parity stop2) s = .refused .baudZero)

/-- CFG_RESP_TO, CFG_TXEN and CLEAR_EXC always complete, in every state, and each writes its one register (47_config.md
R341, R342, R343). -/
def Obligations.OneRegisterConfigurationCommandsComplete : Prop :=
  ∀ (s : State) (resp : TimeReg) (en : Bool),
    exec (.cfgRespTo resp) s = .next { s with respTo := resp } ∧
    exec (.cfgTxen en) s = .next { s with txenEn := en } ∧
    exec .clearExc s = .next { s with exc := none }

/-! ## Acceptance of the exchange commands -/

/-- Before CFG_LINK every exchange command is refused (42_framer.md R202, 70_reset_and_hazards.md R402). -/
def Obligations.ExchangeBeforeCfgLinkIsRefused : Prop :=
  ∀ (s : State) (ins : Instr), s.cfgValid = false → ins.op.isExchange = true → wellFormed ins = true →
    exec ins s = .refused .notConfigured

/-- The four reads complete for a unicast unit, a legal quantity and a large enough capacity: the request is latched and
framed (44_reads.md R270, R271, R280 to R283; 42_framer.md R202, R203, the CRC as in log entry 5, DEDUCED). -/
def Obligations.AcceptedReadLatchesAndFramesTheRequest : Prop :=
  ∀ (s : State) (unit : Byte) (addr qty cap : U16),
    s.cfgValid = true → unit ≠ 0#8 → unit.toNat ≤ 247 → 1 ≤ qty.toNat → qty.toNat ≤ cap.toNat →
    ∀ p ∈ [(Instr.readCoils, 0x01#8, 2000), (Instr.readDi, 0x02#8, 2000), (Instr.readHr, 0x03#8, 125),
        (Instr.readIr, 0x04#8, 125)],
      qty.toNat ≤ p.2.2 →
      ∃ t, exec (p.1 unit addr qty cap) s = .next t ∧
        s.Accepted t { op := some p.2.1, unit := some unit, addr := some addr, qty := some qty, val := none }
          [unit, p.2.1, addr.extractLsb' 8 8, addr.extractLsb' 0 8, qty.extractLsb' 8 8, qty.extractLsb' 0 8]

/-- A read that fails its operand checks ends in the accept step, the first failing check of unit, quantity and capacity
deciding, with nothing else changed (44_reads.md R270, 42_framer.md R202, 60_exceptions.md R361). -/
def Obligations.InvalidReadEndsInItsAcceptStep : Prop :=
  ∀ (s : State) (unit : Byte) (addr qty cap : U16), s.cfgValid = true →
    ∀ p ∈ [(Instr.readCoils, 2000), (Instr.readDi, 2000), (Instr.readHr, 125), (Instr.readIr, 125)],
      ∀ st,
        st = (if unit = 0#8 ∨ 247 < unit.toNat then some Status.invalidId
              else if qty = 0#16 ∨ p.2 < qty.toNat then some .invalidQuantity
              else if cap.toNat < qty.toNat then some .invalidBuffer
              else none) →
        st ≠ none →
        exec (p.1 unit addr qty cap) s = .next
          { s with status := st, fsm := .idle, out := { s.out with done := true } }

/-- The two single writes complete for every unit 0 to 247: the request is latched and framed, with 0xFF00 for "on" and
0x0000 for "off" (45_single_writes.md R300, R301, R304, R305; 42_framer.md R202, R203, the CRC as in log entry 5,
DEDUCED). -/
def Obligations.AcceptedSingleWriteLatchesAndFramesTheRequest : Prop :=
  ∀ (s : State) (unit : Byte) (addr value : U16) (coil : Bool), s.cfgValid = true → unit.toNat ≤ 247 →
    (∃ t, exec (.writeCoil unit addr coil) s = .next t ∧
      s.Accepted t
        { op := some 0x05#8, unit := some unit, addr := some addr, qty := none,
          val := some (if coil then 0xFF00#16 else 0x0000#16) }
        [unit, 0x05#8, addr.extractLsb' 8 8, addr.extractLsb' 0 8, if coil then 0xFF#8 else 0x00#8, 0x00#8]) ∧
    (∃ t, exec (.writeReg unit addr value) s = .next t ∧
      s.Accepted t
        { op := some 0x06#8, unit := some unit, addr := some addr, qty := none, val := some value }
        [unit, 0x06#8, addr.extractLsb' 8 8, addr.extractLsb' 0 8, value.extractLsb' 8 8, value.extractLsb' 0 8])

/-- A write to a unit above 247 ends with INVALID_ID in the accept step, with nothing else changed (45_single_writes.md
R300, 46_multiple_writes.md R320, 30_encoding.md R129). -/
def Obligations.WriteToInvalidUnitEndsInItsAcceptStep : Prop :=
  ∀ (s : State) (unit : Byte) (addr value qty cap : U16) (coil : Bool) (bits : List Bool) (regs : List U16),
    s.cfgValid = true → 247 < unit.toNat → bits.length = cap.toNat → regs.length = cap.toNat →
    ∀ ins ∈ [Instr.writeCoil unit addr coil, .writeReg unit addr value, .writeCoils unit addr qty cap bits,
        .writeRegs unit addr qty cap regs],
      exec ins s = .next
        { s with status := some .invalidId, fsm := .idle, out := { s.out with done := true } }

/-- WRITE_COILS completes for units 0 to 247, quantities 1 to 1968 and enough elements: element `8 * j + k` stands in
bit `k` of packed byte `j`, and the padding bits are 0 (46_multiple_writes.md R320, R322, R326). -/
def Obligations.AcceptedWriteCoilsPacksTheElements : Prop :=
  ∀ (s : State) (unit : Byte) (addr qty cap : U16) (data : List Bool),
    s.cfgValid = true → unit.toNat ≤ 247 → 1 ≤ qty.toNat → qty.toNat ≤ 1968 → qty.toNat ≤ cap.toNat →
    data.length = cap.toNat →
    ∃ t packed, packed.length = (qty.toNat + 7) / 8 ∧
      (∀ j k byte, packed[j]? = some byte → k < 8 →
        (byte : Byte).getLsbD k = (decide (8 * j + k < qty.toNat) && data.getD (8 * j + k) false)) ∧
      exec (.writeCoils unit addr qty cap data) s = .next t ∧
      s.Accepted t { op := some 0x0F#8, unit := some unit, addr := some addr, qty := some qty, val := none }
        ([unit, 0x0F#8, addr.extractLsb' 8 8, addr.extractLsb' 0 8, qty.extractLsb' 8 8, qty.extractLsb' 0 8,
          BitVec.ofNat 8 ((qty.toNat + 7) / 8)] ++ packed)

/-- WRITE_REGS completes for units 0 to 247, quantities 1 to 123 and enough elements: register `i` stands big-endian at
payload bytes `2 * i` and `2 * i + 1` (46_multiple_writes.md R320, R323, R327). -/
def Obligations.AcceptedWriteRegsLaysOutTheRegisters : Prop :=
  ∀ (s : State) (unit : Byte) (addr qty cap : U16) (data : List U16),
    s.cfgValid = true → unit.toNat ≤ 247 → 1 ≤ qty.toNat → qty.toNat ≤ 123 → qty.toNat ≤ cap.toNat →
    data.length = cap.toNat →
    ∃ t payload, payload.length = 2 * qty.toNat ∧
      (∀ k v, k < qty.toNat → data[k]? = some v →
        payload[2 * k]? = some ((v : U16).extractLsb' 8 8) ∧ payload[2 * k + 1]? = some (v.extractLsb' 0 8)) ∧
      exec (.writeRegs unit addr qty cap data) s = .next t ∧
      s.Accepted t { op := some 0x10#8, unit := some unit, addr := some addr, qty := some qty, val := none }
        ([unit, 0x10#8, addr.extractLsb' 8 8, addr.extractLsb' 0 8, qty.extractLsb' 8 8, qty.extractLsb' 0 8,
          BitVec.ofNat 8 (2 * qty.toNat)] ++ payload)

/-- A multiple write to a legal unit with a bad quantity or too few elements ends in the accept step, the quantity being
checked first, with nothing else changed (46_multiple_writes.md R320). -/
def Obligations.InvalidMultipleWriteEndsInItsAcceptStep : Prop :=
  ∀ (s : State) (unit : Byte) (addr qty cap : U16) (bits : List Bool) (regs : List U16),
    s.cfgValid = true → unit.toNat ≤ 247 → bits.length = cap.toNat → regs.length = cap.toNat →
    ∀ p ∈ [(Instr.writeCoils unit addr qty cap bits, 1968), (Instr.writeRegs unit addr qty cap regs, 123)],
      (qty = 0#16 ∨ p.2 < qty.toNat →
        exec p.1 s = .next
          { s with status := some .invalidQuantity, fsm := .idle, out := { s.out with done := true } }) ∧
      (¬ (qty = 0#16 ∨ p.2 < qty.toNat) → cap.toNat < qty.toNat →
        exec p.1 s = .next
          { s with status := some .invalidBuffer, fsm := .idle, out := { s.out with done := true } })

/-- The meanings of the multiple writes refuse a WDATA that is not as long as CAP says, in every state. It is about `exec`
on instructions no command decodes to, and is the model's choice (DESIGN CHOICE, log entry 8); the refusal of the
command itself (30_encoding.md R115, R120) is MalformedCommandIsRefusedInOrder. -/
def Obligations.MultipleWriteWithWrongWDataIsRefused : Prop :=
  ∀ (s : State) (unit : Byte) (addr qty cap : U16) (bits : List Bool) (regs : List U16),
    (bits.length ≠ cap.toNat → exec (.writeCoils unit addr qty cap bits) s = .refused .wdataMismatch) ∧
    (regs.length ≠ cap.toNat → exec (.writeRegs unit addr qty cap regs) s = .refused .wdataMismatch)

/-! ## Send -/

/-- The TX_WRITE step hands the whole of BUF[0 .. LEN) to the transport in one event and goes to TX_FLUSH, ignoring the
offered byte and tx_done (42_framer.md R204). -/
def Obligations.TxWriteHandsOverTheFrame : Prop :=
  ∀ (s : State) (i : Input) (rest : List Event) (bs : List Byte),
    s.Polls i rest → s.fsm = .txWrite → i.cmd = none → Cells.load 0 s.len s.buf = some bs →
    step s = .next
      { s with
        pending := rest, fsm := .txFlush
        out := { rxTake := false, txWrite := some bs, txen := s.txen, done := false } }

/-- The TX_FLUSH step waits for tx_done, then releases TXEN; a broadcast ends with SUCCESS, any other exchange starts its
response wait (42_framer.md R205). -/
def Obligations.TxFlushReleasesTxenAndStartsTheWait : Prop :=
  ∀ (s : State) (i : Input) (rest : List Event), s.Polls i rest → s.fsm = .txFlush → i.cmd = none →
    (i.txDone = false → step s = .next
      { s with pending := rest, out := { rxTake := false, txWrite := none, txen := s.txen, done := false } }) ∧
    (i.txDone = true → s.req.unit = some 0#8 → step s = .next
      { s with
        pending := rest, txen := false, status := some .success, fsm := .idle
        out := { rxTake := false, txWrite := none, txen := false, done := true } }) ∧
    (∀ unit, i.txDone = true → s.req.unit = some unit → unit ≠ 0#8 → step s = .next
      { s with
        pending := rest, txen := false, tStart := some i.now, len := 0, fsm := .await
        out := { rxTake := false, txWrite := none, txen := false, done := false } })

/-- A write to unit 0 takes three polls: accepted with TXEN asserted if in use, handed over, and ended with SUCCESS in
the poll that reports the flush, with no receive (45_single_writes.md R303, 46_multiple_writes.md R325, 20_memory.md
R94, 70_reset_and_hazards.md R412). -/
def Obligations.BroadcastWriteEndsAtTheFlush : Prop :=
  ∀ (s : State) (addr value qty cap : U16) (coil : Bool) (bits : List Bool) (regs : List U16) (ins : Instr)
    (i1 i2 i3 : Input) (rest : List Event),
    (ins = .writeCoil 0#8 addr coil ∨ ins = .writeReg 0#8 addr value ∨
      (ins = .writeCoils 0#8 addr qty cap bits ∧ bits.length = cap.toNat ∧ 1 ≤ qty.toNat ∧ qty.toNat ≤ 1968 ∧
        qty.toNat ≤ cap.toNat) ∨
      (ins = .writeRegs 0#8 addr qty cap regs ∧ regs.length = cap.toNat ∧ 1 ≤ qty.toNat ∧ qty.toNat ≤ 123 ∧
        qty.toNat ≤ cap.toNat)) →
    s.refused = false → s.fsm = .idle → s.cfgValid = true →
    s.pending = .poll i1 :: .poll i2 :: .poll i3 :: rest →
    i1.cmd = some (encode ins) → i2.cmd = none → i3.cmd = none → i3.txDone = true →
    ∃ t1 t2 t3 frame,
      step s = .next t1 ∧ t1.fsm = .txWrite ∧
      t1.out = { rxTake := false, txWrite := none, txen := s.txenEn, done := false } ∧
      step t1 = .next t2 ∧ t2.fsm = .txFlush ∧
      t2.out = { rxTake := false, txWrite := some frame, txen := s.txenEn, done := false } ∧
      frame.head? = some 0#8 ∧
      step t2 = .next t3 ∧ t3.fsm = .idle ∧ t3.status = some .success ∧ t3.exc = none ∧
      t3.out = { rxTake := false, txWrite := none, txen := false, done := true } ∧
      t3.outBits = s.outBits ∧ t3.outRegs = s.outRegs ∧ t3.pending = rest

/-! ## Receive -/

/-- A byte offered in AWAIT, in ACCUM, or in CONFIRM before the frame gap is consumed: it is stored at index LEN and the
silence clock restarts, or, when BUF is full, it is discarded and the exchange ends with FRAME_ERROR (43_receive.md
R232, R233, R234, R235). -/
def Obligations.OfferedByteIsStoredOrOverruns : Prop :=
  ∀ (s : State) (i : Input) (rest : List Event) (b : Byte),
    s.Polls i rest → i.cmd = none → i.rx = some b → s.TakesByte i →
    (s.len < 256 →
      ∃ buf, step s = .next
          { s with
            pending := rest, buf := buf, len := s.len + 1, tLast := some i.now, fsm := .accum
            out := { rxTake := true, txWrite := none, txen := s.txen, done := false } } ∧
        ∀ a, Cells.get a buf = if a = s.len then some b else Cells.get a s.buf) ∧
    (s.len = 256 → step s = .next
      { s with
        pending := rest, status := some .frameError, fsm := .idle
        out := { rxTake := true, txWrite := none, txen := s.txen, done := true } })

/-- Without a byte, AWAIT ends with RESPONSE_TIMEOUT once RESP_TO has elapsed since T_START and otherwise waits
(43_receive.md R232, 41_timing.md R189). -/
def Obligations.AwaitTimesOutAtRespTo : Prop :=
  ∀ (s : State) (i : Input) (rest : List Event) (t0 : TimeReg),
    s.Polls i rest → s.fsm = .await → i.cmd = none → i.rx = none → s.tStart = some t0 →
    (s.respTo.toNat ≤ (elapsed i.now t0).toNat → step s = .next (s.endedBy rest .responseTimeout)) ∧
    (¬ s.respTo.toNat ≤ (elapsed i.now t0).toNat → step s = .next
      { s with pending := rest, out := { rxTake := false, txWrite := none, txen := s.txen, done := false } })

/-- Without a byte, ACCUM goes to CONFIRM once the silence exceeds CHAR_TO and otherwise waits (43_receive.md R233,
41_timing.md R189). -/
def Obligations.AccumConfirmsAfterCharTo : Prop :=
  ∀ (s : State) (i : Input) (rest : List Event) (t0 ct : TimeReg),
    s.Polls i rest → s.fsm = .accum → i.cmd = none → i.rx = none → s.tLast = some t0 → s.charTo = some ct →
    (ct.toNat < (elapsed i.now t0).toNat → step s = .next
      { s with
        pending := rest, fsm := .confirm
        out := { rxTake := false, txWrite := none, txen := s.txen, done := false } }) ∧
    (¬ ct.toNat < (elapsed i.now t0).toNat → step s = .next
      { s with pending := rest, out := { rxTake := false, txWrite := none, txen := s.txen, done := false } })

/-- In CONFIRM a byte still offered once FRAME_TO has elapsed ends the exchange with FRAME_ERROR and is not consumed;
without a byte and before FRAME_TO the block waits (43_receive.md R235 with CONFIRM_POLICY = APPEND, 41_timing.md
R189). -/
def Obligations.ConfirmRejectsAByteAtTheFrameGap : Prop :=
  ∀ (s : State) (i : Input) (rest : List Event) (t0 ft : TimeReg),
    s.Polls i rest → s.fsm = .confirm → i.cmd = none → s.tLast = some t0 → s.frameTo = some ft →
    (∀ b, i.rx = some b → ft.toNat ≤ (elapsed i.now t0).toNat → step s = .next (s.endedBy rest .frameError)) ∧
    (i.rx = none → ¬ ft.toNat ≤ (elapsed i.now t0).toNat → step s = .next
      { s with pending := rest, out := { rxTake := false, txWrite := none, txen := s.txen, done := false } })

/-- The CONFIRM step under CONFIRM_POLICY = REJECT, which is not this hardware's: any offered byte ends the receive with
FRAME_ERROR, before any timeout test; without one the frame ends at the frame gap, and before it the block waits
(43_receive.md R236). -/
def Obligations.RejectPolicyEndsOnAnyByte : Prop :=
  ∀ (s : State) (i : Input),
    (∀ b, i.rx = some b → confirmStep .reject i s = .next
      { s with status := some .frameError, fsm := .idle, out := { s.out with done := true } }) ∧
    (∀ t0 ft, i.rx = none → s.tLast = some t0 → s.frameTo = some ft →
      confirmStep .reject i s = if ft.toNat ≤ (elapsed i.now t0).toNat then endOfFrame s else .next s)

/-- At the frame end a frame below 4 bytes is a FRAME_ERROR, and a longer one whose last two bytes are not the CRC of the
bytes before them, low byte first, is a CRC_ERROR; nothing else changes (43_receive.md R238, 40_crc.md R164). -/
def Obligations.ShortOrCorruptFrameEndsTheExchange : Prop :=
  ∀ (s : State) (i : Input) (rest : List Event) (bs : List Byte), s.AtFrameEnd i rest bs →
    (bs.length < 4 → step s = .next (s.endedBy rest .frameError)) ∧
    (4 ≤ bs.length →
      bs.drop (bs.length - 2) ≠
        [(crc16 (bs.take (bs.length - 2))).extractLsb' 0 8, (crc16 (bs.take (bs.length - 2))).extractLsb' 8 8] →
      step s = .next (s.endedBy rest .crcError))

/-- The common response checks in their order: unit, then exception, then function code; an exception response captures
its first data byte in EXC (43_receive.md R242, 30_encoding.md R126, R130). -/
def Obligations.CommonChecksDecideInOrder : Prop :=
  ∀ (s : State) (i : Input) (rest : List Event) (u f unit op : Byte) (data : List Byte),
    s.AtFrameEnd i rest (withCrc (u :: f :: data)) → s.req.unit = some unit → s.req.op = some op →
    (u ≠ unit → step s = .next (s.endedBy rest .unexpectedId)) ∧
    (u = unit → f = op + 0x80#8 → data = [] → step s = .next (s.endedBy rest .unexpectedLength)) ∧
    (∀ code more, u = unit → f = op + 0x80#8 → data = code :: more →
      step s = .next { s.endedBy rest .exceptionResponse with exc := some code }) ∧
    (u = unit → f ≠ op + 0x80#8 → f ≠ op → step s = .next (s.endedBy rest .unexpectedFunctionCode))

/-- A read response of the wrong length ends with UNEXPECTED_LENGTH whatever its byte count says, and one of the right
length with the wrong byte count with UNEXPECTED_BYTE_COUNT; nothing else changes (44_reads.md R272, R274, R275). -/
def Obligations.ReadResponseLengthAndByteCountAreChecked : Prop :=
  ∀ (s : State) (i : Input) (rest : List Event) (unit op : Byte) (qty : U16) (data : List Byte) (bc : Nat),
    s.AtFrameEnd i rest (withCrc (unit :: op :: data)) →
    s.req.unit = some unit → s.req.op = some op → s.req.qty = some qty →
    ((op = 0x01#8 ∨ op = 0x02#8) ∧ bc = (qty.toNat + 7) / 8 ∨ (op = 0x03#8 ∨ op = 0x04#8) ∧ bc = 2 * qty.toNat) →
    (data.length ≠ 1 + bc → step s = .next (s.endedBy rest .unexpectedLength)) ∧
    (∀ declared payload, data = declared :: payload → data.length = 1 + bc → declared.toNat ≠ bc →
      step s = .next (s.endedBy rest .unexpectedByteCount))

/-- A good response to READ_COILS or READ_DI ends with SUCCESS, and OUT_BITS[k] for k below QTY is bit `k % 8` of payload
byte `k / 8`; every other element and every other register is as it was (44_reads.md R274, R276, R280, R281). -/
def Obligations.BitReadResponseUnpacksIntoOutBits : Prop :=
  ∀ (s : State) (i : Input) (rest : List Event) (unit op declared : Byte) (qty : U16) (payload : List Byte),
    s.AtFrameEnd i rest (withCrc (unit :: op :: declared :: payload)) →
    s.req.unit = some unit → s.req.op = some op → s.req.qty = some qty → op = 0x01#8 ∨ op = 0x02#8 →
    qty.toNat ≤ 2000 → payload.length = (qty.toNat + 7) / 8 → declared.toNat = (qty.toNat + 7) / 8 →
    ∃ bits, step s = .next { s.endedBy rest .success with outBits := bits } ∧
      ∀ k, Cells.get k bits =
        if k < qty.toNat then (payload[k / 8]?).map (fun b => b.getLsbD (k % 8)) else Cells.get k s.outBits

/-- A good response to READ_HR or READ_IR ends with SUCCESS, and OUT_REGS[k] for k below QTY is the big-endian word at
payload offset `2 * k`; every other element and every other register is as it was (44_reads.md R274, R277, R282,
R283). -/
def Obligations.RegisterReadResponseUnpacksIntoOutRegs : Prop :=
  ∀ (s : State) (i : Input) (rest : List Event) (unit op declared : Byte) (qty : U16) (payload : List Byte),
    s.AtFrameEnd i rest (withCrc (unit :: op :: declared :: payload)) →
    s.req.unit = some unit → s.req.op = some op → s.req.qty = some qty → op = 0x03#8 ∨ op = 0x04#8 →
    qty.toNat ≤ 125 → payload.length = 2 * qty.toNat → declared.toNat = 2 * qty.toNat →
    ∃ regs, step s = .next { s.endedBy rest .success with outRegs := regs } ∧
      (∀ k hi lo, k < qty.toNat → payload[2 * k]? = some hi → payload[2 * k + 1]? = some lo →
        Cells.get k regs = some (hi ++ lo)) ∧
      (∀ k, qty.toNat ≤ k → Cells.get k regs = Cells.get k s.outRegs)

/-- The response to a single write must be its echo: length, then address, then value decide, and nothing else changes
(45_single_writes.md R302, R304, R305). -/
def Obligations.SingleWriteResponseMustEcho : Prop :=
  ∀ (s : State) (i : Input) (rest : List Event) (unit op : Byte) (addr val : U16) (data : List Byte),
    s.AtFrameEnd i rest (withCrc (unit :: op :: data)) →
    s.req.unit = some unit → s.req.op = some op → s.req.addr = some addr → s.req.val = some val →
    op = 0x05#8 ∨ op = 0x06#8 →
    (data.length ≠ 4 → step s = .next (s.endedBy rest .unexpectedLength)) ∧
    (∀ a1 a0 v1 v0 : Byte, data = [a1, a0, v1, v0] → step s = .next (s.endedBy rest
      (if a1 ++ a0 ≠ addr then .unexpectedAddress else if v1 ++ v0 ≠ val then .unexpectedValue else .success)))

/-- The response to a multiple write must echo address and quantity: length, then address, then quantity decide, and
nothing else changes (46_multiple_writes.md R324, R326, R327). -/
def Obligations.MultipleWriteResponseMustEcho : Prop :=
  ∀ (s : State) (i : Input) (rest : List Event) (unit op : Byte) (addr qty : U16) (data : List Byte),
    s.AtFrameEnd i rest (withCrc (unit :: op :: data)) →
    s.req.unit = some unit → s.req.op = some op → s.req.addr = some addr → s.req.qty = some qty →
    op = 0x0F#8 ∨ op = 0x10#8 →
    (data.length ≠ 4 → step s = .next (s.endedBy rest .unexpectedLength)) ∧
    (∀ a1 a0 q1 q0 : Byte, data = [a1, a0, q1, q0] → step s = .next (s.endedBy rest
      (if a1 ++ a0 ≠ addr then .unexpectedAddress else if q1 ++ q0 ≠ qty then .unexpectedQuantity else .success)))

/-- A whole register read: from any configured idle state, for every unit 1 to 247, every address and every list of 1 to
125 register values, the command, the write, the flush, the response of a slave that holds those values, one byte a
poll at any times, a character gap and a frame gap end in SUCCESS with exactly those values in OUT_REGS (44_reads.md
R282, R283, 43_receive.md R245, R247). -/
def Obligations.RegisterReadExchangeReturnsTheRegisters : Prop :=
  ∀ p ∈ [(Instr.readHr, 0x03#8), (Instr.readIr, 0x04#8)],
    ∀ (s : State) (unit : Byte) (addr cap : U16) (regs : List U16) (ct ft : TimeReg) (tl tg te : Time) (i1 i2 i3 : Input)
      (times : List Time) (rest : List Event) (response : List Byte),
      s.refused = false → s.fsm = .idle → s.cfgValid = true → s.charTo = some ct → s.frameTo = some ft →
      unit ≠ 0#8 → unit.toNat ≤ 247 → 1 ≤ regs.length → regs.length ≤ 125 → regs.length ≤ cap.toNat →
      response = withCrc (unit :: p.2 :: BitVec.ofNat 8 (2 * regs.length) :: regs.flatMap be16) →
      i1.cmd = some (encode (p.1 unit addr (BitVec.ofNat 16 regs.length) cap)) →
      i2.cmd = none → i3.cmd = none → i3.txDone = true →
      times.length = response.length → times.getLast? = some tl → ct.toNat < (elapsed tg tl).toNat →
      ft.toNat ≤ (elapsed te tl).toNat →
      s.pending = .poll i1 :: .poll i2 :: .poll i3 ::
        (bytePolls response times ++ quietPoll tg :: quietPoll te :: rest) →
      ∃ t, Host.Core.run Sys2Proof.core (response.length + 5) s = .next t ∧
        t.fsm = .idle ∧ t.status = some .success ∧ t.exc = none ∧
        t.out = { rxTake := false, txWrite := none, txen := false, done := true } ∧
        t.outBits = s.outBits ∧ t.pending = rest ∧
        ∀ k, Cells.get k t.outRegs = if k < regs.length then regs[k]? else Cells.get k s.outRegs
end

