-- ==== Sys2Proof/Laws/Cells.lean ====
section
/-! SUPPORT. The laws of the indexed stores: read after write, sequences, the canonical form and extensionality. -/

namespace Sys2Proof.Machine

variable {α : Type}

@[simp] theorem Cells.get_nil (a : Nat) : Cells.get a ([] : Cells α) = none := rfl

/-- A read after a write: the written index gives the value, every other index what it held. -/
theorem Cells.get_set (a b : Nat) (v : α) (c : Cells α) :
    Cells.get b (Cells.set a v c) = if b = a then some v else Cells.get b c := by
  induction c with
  | nil => simp [Cells.set, Cells.get]
  | cons p c ih =>
    obtain ⟨k, w⟩ := p
    simp only [Cells.set]
    split
    · simp [Cells.get]
    · split
      · subst_vars; simp only [Cells.get]; split <;> rfl
      · simp only [Cells.get, ih]
        by_cases hb : b = a
        · subst hb; simp_all
        · simp [hb]

@[simp] theorem Cells.get_set_self (a : Nat) (v : α) (c : Cells α) :
    Cells.get a (Cells.set a v c) = some v := by
  simp [Cells.get_set]

theorem Cells.get_set_ne {a b : Nat} (h : b ≠ a) (v : α) (c : Cells α) :
    Cells.get b (Cells.set a v c) = Cells.get b c := by
  simp [Cells.get_set, h]

/-- A read after a sequence of writes: the written range gives the sequence, every other index what it held. -/
theorem Cells.get_store (a b : Nat) (vs : List α) (c : Cells α) :
    Cells.get b (Cells.store a vs c) =
      if a ≤ b ∧ b < a + vs.length then vs[b - a]? else Cells.get b c := by
  induction vs generalizing a c with
  | nil => simp [Cells.store]
  | cons v vs ih =>
    simp only [Cells.store, ih, Cells.get_set, List.length_cons]
    by_cases h1 : a + 1 ≤ b ∧ b < a + 1 + vs.length
    · have h2 : a ≤ b ∧ b < a + (vs.length + 1) := by omega
      rw [if_pos h1, if_pos h2, show b - a = (b - (a + 1)) + 1 by omega, List.getElem?_cons_succ]
    · rw [if_neg h1]
      by_cases hb : b = a
      · subst hb; simp
      · rw [if_neg hb, if_neg (by omega)]

/-- A read inside a written sequence. -/
theorem Cells.get_store_mem {a b : Nat} {vs : List α} (h1 : a ≤ b) (h2 : b < a + vs.length) (c : Cells α) :
    Cells.get b (Cells.store a vs c) = vs[b - a]? := by
  rw [Cells.get_store, if_pos ⟨h1, h2⟩]

/-- A read outside a written sequence. -/
theorem Cells.get_store_of_not_mem {a b : Nat} {vs : List α} (h : ¬ (a ≤ b ∧ b < a + vs.length)) (c : Cells α) :
    Cells.get b (Cells.store a vs c) = Cells.get b c := by
  rw [Cells.get_store, if_neg h]

/-! ## Sequences read back -/

/-- A load depends on the indices it reads alone. -/
theorem Cells.load_congr {a n : Nat} {c d : Cells α}
    (h : ∀ b, a ≤ b → b < a + n → Cells.get b d = Cells.get b c) :
    Cells.load a n d = Cells.load a n c := by
  induction n generalizing a with
  | zero => rfl
  | succ n ih =>
    simp only [Cells.load]
    rw [h a (Nat.le_refl a) (by omega), ih (fun b h1 h2 => h b (by omega) (by omega))]

/-- What a load that answers a sequence says of every index. -/
theorem Cells.load_eq_some {a n : Nat} {c : Cells α} {vs : List α} :
    Cells.load a n c = some vs ↔ vs.length = n ∧ ∀ k, k < n → Cells.get (a + k) c = vs[k]? := by
  induction n generalizing a vs with
  | zero => simp [Cells.load, eq_comm]
  | succ n ih =>
    simp only [Cells.load]
    constructor
    · intro h
      split at h
      · rename_i v ws hv hws
        obtain ⟨hl, hk⟩ := ih.1 hws
        cases h
        refine ⟨by simp [hl], fun k hk' => ?_⟩
        cases k with
        | zero => simpa using hv
        | succ k => simpa [Nat.add_assoc, Nat.add_comm 1 k] using hk k (by omega)
      · cases h
    · rintro ⟨hl, hk⟩
      cases vs with
      | nil => simp at hl
      | cons v vs =>
        have h0 : Cells.get a c = some v := by simpa using hk 0 (by omega)
        have h1 : Cells.load (a + 1) n c = some vs :=
          ih.2 ⟨by simpa using hl, fun k hk' => by
            have := hk (k + 1) (by omega)
            rw [show a + 1 + k = a + (k + 1) by omega]; simpa using this⟩
        simp [h0, h1]

/-- A sequence written is read back. -/
@[simp] theorem Cells.load_store_self (a : Nat) (vs : List α) (c : Cells α) :
    Cells.load a vs.length (Cells.store a vs c) = some vs := by
  rw [Cells.load_eq_some]
  refine ⟨rfl, fun k hk => ?_⟩
  rw [Cells.get_store_mem (by omega) (by omega)]
  congr 1; omega

/-- One more byte: a load that ends at the index just written. -/
theorem Cells.load_set_snoc {n : Nat} {c : Cells α} {vs : List α} (v : α)
    (h : Cells.load 0 n c = some vs) :
    Cells.load 0 (n + 1) (Cells.set n v c) = some (vs ++ [v]) := by
  obtain ⟨hl, hk⟩ := Cells.load_eq_some.1 h
  rw [Cells.load_eq_some]
  refine ⟨by simp [hl], fun k hk' => ?_⟩
  rw [Cells.get_set]
  by_cases hkn : k = n
  · subst hkn; simp [← hl]
  · rw [if_neg (by omega), hk k (by omega), List.getElem?_append_left (by omega)]

/-! ## The canonical form -/

theorem Cells.wfFrom_mono {lo lo' hi : Nat} {c : Cells α} (h : lo' ≤ lo)
    (hc : Cells.wfFrom lo hi c = true) : Cells.wfFrom lo' hi c = true := by
  cases c with
  | nil => rfl
  | cons p c =>
    simp only [Cells.wfFrom, Bool.and_eq_true, decide_eq_true_eq] at hc ⊢
    exact ⟨⟨by omega, hc.1.2⟩, hc.2⟩

/-- A write inside the range keeps the canonical form. -/
theorem Cells.wfFrom_set {lo hi a : Nat} {c : Cells α} (v : α) (h1 : lo ≤ a) (h2 : a < hi)
    (hc : Cells.wfFrom lo hi c = true) : Cells.wfFrom lo hi (Cells.set a v c) = true := by
  induction c generalizing lo with
  | nil => simp [Cells.set, Cells.wfFrom]; omega
  | cons p c ih =>
    obtain ⟨k, w⟩ := p
    simp only [Cells.wfFrom, Bool.and_eq_true, decide_eq_true_eq] at hc
    obtain ⟨⟨hlk, hkh⟩, hcc⟩ := hc
    simp only [Cells.set]
    split
    · simp [Cells.wfFrom, hcc]; omega
    · split
      · subst_vars; simp [Cells.wfFrom, hcc]; omega
      · have := ih (lo := k + 1) (by omega) hcc
        simp [Cells.wfFrom, this]; omega

theorem Cells.wf_nil (n : Nat) : Cells.wf n ([] : Cells α) = true := rfl

theorem Cells.wf_set {n a : Nat} {c : Cells α} (v : α) (h : a < n) (hc : Cells.wf n c = true) :
    Cells.wf n (Cells.set a v c) = true :=
  Cells.wfFrom_set v (Nat.zero_le a) h hc

/-- A sequence written inside the range keeps the canonical form. -/
theorem Cells.wf_store {n a : Nat} {vs : List α} {c : Cells α} (h : a + vs.length ≤ n)
    (hc : Cells.wf n c = true) : Cells.wf n (Cells.store a vs c) = true := by
  induction vs generalizing a c with
  | nil => exact hc
  | cons v vs ih =>
    simp only [List.length_cons] at h
    exact ih (by omega) (Cells.wf_set v (by omega) hc)

theorem Memory.wf_set {a : Nat} {m : Memory} (v : Byte) (h : a < Config.frameCap) (hm : Memory.wf m = true) :
    Memory.wf (Cells.set a v m) = true :=
  Cells.wf_set v h hm

theorem Memory.wf_store {a : Nat} {vs : List Byte} {m : Memory} (h : a + vs.length ≤ Config.frameCap)
    (hm : Memory.wf m = true) : Memory.wf (Cells.store a vs m) = true :=
  Cells.wf_store h hm

/-- Below its first index a canonical store holds nothing. -/
theorem Cells.get_of_lt {lo hi a : Nat} {c : Cells α} (hc : Cells.wfFrom lo hi c = true) (h : a < lo) :
    Cells.get a c = none := by
  induction c generalizing lo with
  | nil => rfl
  | cons p c ih =>
    obtain ⟨k, w⟩ := p
    simp only [Cells.wfFrom, Bool.and_eq_true, decide_eq_true_eq] at hc
    simp only [Cells.get]
    rw [if_neg (by omega)]
    exact ih hc.2 (by omega)

theorem Cells.ext_from {lo hi : Nat} {c d : Cells α} (hc : Cells.wfFrom lo hi c = true)
    (hd : Cells.wfFrom lo hi d = true) (h : ∀ a, Cells.get a c = Cells.get a d) : c = d := by
  induction c generalizing lo d with
  | nil =>
    cases d with
    | nil => rfl
    | cons p d => have := h p.1; simp [Cells.get] at this
  | cons p c ih =>
    obtain ⟨k, v⟩ := p
    simp only [Cells.wfFrom, Bool.and_eq_true, decide_eq_true_eq] at hc
    cases d with
    | nil => have := h k; simp [Cells.get] at this
    | cons q d =>
      obtain ⟨l, w⟩ := q
      simp only [Cells.wfFrom, Bool.and_eq_true, decide_eq_true_eq] at hd
      have hk := h k
      have hl := h l
      simp only [Cells.get, if_true] at hk hl
      have hkl : k = l := by
        by_contra hne
        rcases Nat.lt_or_ge k l with hlt | hge
        · rw [if_neg hne, Cells.get_of_lt hd.2 (by omega)] at hk; cases hk
        · rw [if_neg (Ne.symm hne), Cells.get_of_lt hc.2 (by omega)] at hl; cases hl
      subst hkl
      simp only [if_true, Option.some.injEq] at hk
      subst hk
      have hcd : c = d := by
        refine ih hc.2 hd.2 (fun a => ?_)
        have ha := h a
        simp only [Cells.get] at ha
        by_cases hak : a = k
        · subst hak
          rw [Cells.get_of_lt hc.2 (by omega), Cells.get_of_lt hd.2 (by omega)]
        · rwa [if_neg hak, if_neg hak] at ha
      rw [hcd]

/-- Equal stores are equal data: two canonical stores that read alike everywhere are the same list. -/
theorem Cells.ext_wf {n : Nat} {c d : Cells α} (hc : Cells.wf n c = true) (hd : Cells.wf n d = true)
    (h : ∀ a, Cells.get a c = Cells.get a d) : c = d :=
  Cells.ext_from hc hd h

end Sys2Proof.Machine
end

