-- ==== Sys2Proof/Laws/Codec.lean ====
section
/-! SUPPORT. The laws of the command codec: the operation bytes, and the fields of a word put together from fields. -/

namespace Sys2Proof

/-- The operation byte names the operation. -/
@[simp] theorem Op.ofByte?_byte (op : Op) : Op.ofByte? op.byte = some op := by
  cases op <;> decide

/-- An operation that a byte names has that byte. -/
theorem Op.byte_of_ofByte? {b : Byte} {op : Op} (h : Op.ofByte? b = some op) : op.byte = b := by
  have := List.find?_some h
  simpa using this

/-- The decoder of a word whose operation is known and whose reserved bits are 0. -/
theorem decode_of_op {c : Command} {op : Op} (h : Op.ofByte? (opField c.word) = some op)
    (hr : c.word &&& op.reserved = 0#64) : decode c = op.assemble c.word c.wdata := by
  simp [decode, h, hr]

/-- What a decoded command says of its word: the operation is one of the twelve and its reserved bits are 0. -/
theorem decode_ok {c : Command} {i : Instr} (h : decode c = .ok i) :
    ∃ op, Op.ofByte? (opField c.word) = some op ∧ c.word &&& op.reserved = 0#64 ∧
      op.assemble c.word c.wdata = .ok i := by
  simp only [decode] at h
  split at h
  · cases h
  · rename_i op hop
    split at h
    · rename_i hr; exact ⟨op, hop, hr, h⟩
    · cases h

/-- WDATA is `none` where the format says so. -/
theorem withoutWData_ok {wd : WData} {i j : Instr} : withoutWData wd i = .ok j ↔ wd = .none ∧ i = j := by
  cases wd <;> simp [withoutWData]

theorem withoutWData_error {wd : WData} {i : Instr} {e : DecodeError} :
    withoutWData wd i = .error e ↔ wd ≠ .none ∧ e = .wdataMismatch := by
  cases wd <;> simp [withoutWData, eq_comm]

/-! ## Bits of the formats -/

/-- Bit `k` of an X-READ or X-MULTI word. -/
theorem wordQty_getLsbD (op : Op) (unit : Byte) (addr qty cap : U16) (k : Nat) :
    (wordQty op unit addr qty cap).getLsbD k =
      if k < 8 then op.byte.getLsbD k
      else if k < 16 then unit.getLsbD (k - 8)
      else if k < 32 then addr.getLsbD (k - 16)
      else if k < 48 then qty.getLsbD (k - 32)
      else cap.getLsbD (k - 48) := by
  change (cap ++ qty ++ addr ++ unit ++ op.byte).getLsbD k = _
  simp only [BitVec.getLsbD_append, Nat.sub_sub]
  split_ifs <;> first | rfl | omega

/-- Bit `k` of an X-COIL word. -/
theorem encodeWord_writeCoil_getLsbD (unit : Byte) (addr : U16) (coil : Bool) (k : Nat) :
    (encodeWord (.writeCoil unit addr coil)).getLsbD k =
      if k < 8 then Op.writeCoil.byte.getLsbD k
      else if k < 16 then unit.getLsbD (k - 8)
      else if k < 32 then addr.getLsbD (k - 16)
      else decide (k = 32) && coil := by
  change (0#31 ++ BitVec.ofBool coil ++ addr ++ unit ++ Op.writeCoil.byte).getLsbD k = _
  simp only [BitVec.getLsbD_append, Nat.sub_sub, BitVec.getLsbD_zero, BitVec.getLsbD_ofBool]
  split_ifs <;> first | rfl | omega | (congr 1; simp only [decide_eq_decide]; omega) | (simp; try omega)

/-- Bit `k` of an X-REG word. -/
theorem encodeWord_writeReg_getLsbD (unit : Byte) (addr value : U16) (k : Nat) :
    (encodeWord (.writeReg unit addr value)).getLsbD k =
      if k < 8 then Op.writeReg.byte.getLsbD k
      else if k < 16 then unit.getLsbD (k - 8)
      else if k < 32 then addr.getLsbD (k - 16)
      else value.getLsbD (k - 32) := by
  change (0#16 ++ value ++ addr ++ unit ++ Op.writeReg.byte).getLsbD k = _
  simp only [BitVec.getLsbD_append, Nat.sub_sub, BitVec.getLsbD_zero]
  split_ifs <;> first | rfl | omega | (symm; apply BitVec.getLsbD_of_ge; omega)

/-- Bit `k` of a C-LINK word. -/
theorem encodeWord_cfgLink_getLsbD (baud : TimeReg) (parity : BitVec 2) (stop2 : Bool) (k : Nat) :
    (encodeWord (.cfgLink baud parity stop2)).getLsbD k =
      if k < 8 then Op.cfgLink.byte.getLsbD k
      else if k < 40 then baud.getLsbD (k - 8)
      else if k < 42 then parity.getLsbD (k - 40)
      else decide (k = 42) && stop2 := by
  change (0#21 ++ BitVec.ofBool stop2 ++ parity ++ baud ++ Op.cfgLink.byte).getLsbD k = _
  simp only [BitVec.getLsbD_append, Nat.sub_sub, BitVec.getLsbD_zero, BitVec.getLsbD_ofBool, Config.toW]
  split_ifs <;> first | rfl | omega | (congr 1; simp only [decide_eq_decide]; omega) | (simp; try omega)

/-- Bit `k` of a C-RESP word. -/
theorem encodeWord_cfgRespTo_getLsbD (resp : TimeReg) (k : Nat) :
    (encodeWord (.cfgRespTo resp)).getLsbD k =
      if k < 8 then Op.cfgRespTo.byte.getLsbD k else resp.getLsbD (k - 8) := by
  change (0#24 ++ resp ++ Op.cfgRespTo.byte).getLsbD k = _
  simp only [BitVec.getLsbD_append, Nat.sub_sub, BitVec.getLsbD_zero, Config.toW]
  split_ifs <;> first | rfl | omega | (symm; apply BitVec.getLsbD_of_ge; omega)

/-- Bit `k` of a C-TXEN word. -/
theorem encodeWord_cfgTxen_getLsbD (en : Bool) (k : Nat) :
    (encodeWord (.cfgTxen en)).getLsbD k =
      if k < 8 then Op.cfgTxen.byte.getLsbD k else decide (k = 8) && en := by
  change (0#55 ++ BitVec.ofBool en ++ Op.cfgTxen.byte).getLsbD k = _
  simp only [BitVec.getLsbD_append, Nat.sub_sub, BitVec.getLsbD_zero, BitVec.getLsbD_ofBool]
  split_ifs <;> first | rfl | omega | (congr 1; simp only [decide_eq_decide]; omega) | (simp; try omega)

/-! ## Fields of the formats -/

/-- A field of `n` bits at place `a`, from the bits of the word. -/
theorem field_eq {n a : Nat} {w : Word} {v : BitVec n} (h : ∀ k, k < n → w.getLsbD (a + k) = v.getLsbD k) :
    w.extractLsb' a n = v := by
  ext k hk
  rw [BitVec.getElem_extractLsb', h k hk, BitVec.getLsbD_eq_getElem hk]

/-- The five fields of an X-READ or X-MULTI word. -/
theorem wordQty_fields (op : Op) (unit : Byte) (addr qty cap : U16) :
    opField (wordQty op unit addr qty cap) = op.byte ∧ unitField (wordQty op unit addr qty cap) = unit ∧
      addrField (wordQty op unit addr qty cap) = addr ∧ qtyField (wordQty op unit addr qty cap) = qty ∧
      capField (wordQty op unit addr qty cap) = cap := by
  refine ⟨field_eq ?_, field_eq ?_, field_eq ?_, field_eq ?_, field_eq ?_⟩ <;>
    · intro k hk
      rw [wordQty_getLsbD]
      split_ifs <;> first | omega | (congr 1; omega)

/-- The fields of an X-COIL word. -/
theorem writeCoil_fields (unit : Byte) (addr : U16) (coil : Bool) :
    unitField (encodeWord (.writeCoil unit addr coil)) = unit ∧
      addrField (encodeWord (.writeCoil unit addr coil)) = addr ∧
      coilField (encodeWord (.writeCoil unit addr coil)) = coil := by
  refine ⟨field_eq ?_, field_eq ?_, by rw [coilField, encodeWord_writeCoil_getLsbD]; simp⟩ <;>
    · intro k hk
      rw [encodeWord_writeCoil_getLsbD]
      split_ifs <;> first | omega | (congr 1; omega)

/-- The fields of an X-REG word. -/
theorem writeReg_fields (unit : Byte) (addr value : U16) :
    unitField (encodeWord (.writeReg unit addr value)) = unit ∧
      addrField (encodeWord (.writeReg unit addr value)) = addr ∧
      valueField (encodeWord (.writeReg unit addr value)) = value := by
  refine ⟨field_eq ?_, field_eq ?_, field_eq ?_⟩ <;>
    · intro k hk
      rw [encodeWord_writeReg_getLsbD]
      split_ifs <;> first | omega | (congr 1; omega)

/-- The fields of a C-LINK word. -/
theorem cfgLink_fields (baud : TimeReg) (parity : BitVec 2) (stop2 : Bool) :
    baudField (encodeWord (.cfgLink baud parity stop2)) = baud ∧
      parityField (encodeWord (.cfgLink baud parity stop2)) = parity ∧
      stop2Field (encodeWord (.cfgLink baud parity stop2)) = stop2 := by
  refine ⟨field_eq ?_, field_eq ?_, by rw [stop2Field, encodeWord_cfgLink_getLsbD]; simp⟩ <;>
    · intro k hk
      try simp only [Config.toW] at hk
      rw [encodeWord_cfgLink_getLsbD]
      split_ifs <;> first | omega | (congr 1; omega)

/-- The field of a C-RESP word. -/
theorem cfgRespTo_field (resp : TimeReg) : respField (encodeWord (.cfgRespTo resp)) = resp := by
  refine field_eq fun k hk => ?_
  simp only [Config.toW] at hk
  rw [encodeWord_cfgRespTo_getLsbD]
  split_ifs <;> first | omega | (congr 1; omega)

/-- The field of a C-TXEN word. -/
theorem cfgTxen_field (en : Bool) : enField (encodeWord (.cfgTxen en)) = en := by
  rw [enField, encodeWord_cfgTxen_getLsbD]; simp

/-! ## Reserved bits -/

/-- Bit `k` of a word, where the reserved bits of its format are those from `n` up. -/
theorem reserved_getLsbD {op : Op} {n : Nat} (hm : ∀ k : Fin 64, op.reserved.getLsbD k = decide (n ≤ k.val)) (k : Nat) :
    op.reserved.getLsbD k = (decide (n ≤ k) && decide (k < 64)) := by
  by_cases hk : k < 64
  · simpa [hk] using hm ⟨k, hk⟩
  · rw [BitVec.getLsbD_of_ge _ _ (by omega)]; simp [hk]

/-- A format whose reserved bits are those from `n` up has them 0 exactly when no bit from `n` up is set. -/
theorem reserved_zero_iff {op : Op} {n : Nat} (hm : ∀ k : Fin 64, op.reserved.getLsbD k = decide (n ≤ k.val)) {w : Word} :
    w &&& op.reserved = 0#64 ↔ ∀ k, n ≤ k → w.getLsbD k = false := by
  constructor
  · intro h k hk
    by_cases hk64 : k < 64
    · have h1 : (w &&& op.reserved).getLsbD k = false := by rw [h]; exact BitVec.getLsbD_zero
      rw [BitVec.getLsbD_and, reserved_getLsbD hm] at h1
      simpa only [hk, hk64, decide_true, Bool.and_self, Bool.and_true] using h1
    · exact BitVec.getLsbD_of_ge _ _ (by omega)
  · intro h
    apply BitVec.eq_of_getLsbD_eq
    intro k hk
    rw [BitVec.getLsbD_and, BitVec.getLsbD_zero, reserved_getLsbD hm]
    by_cases hn : n ≤ k
    · rw [h k hn, Bool.false_and]
    · simp [hn]

end Sys2Proof
end

