-- ==== Sys2Proof/Laws/Operands.lean ====
section
/-! SUPPORT. The laws of operand assembly: lengths and elements of packed sequences, byte order, and the CRC register. -/

namespace Sys2Proof.Machine

/-! ## Byte order -/

@[simp] theorem be16_length (v : U16) : (be16 v).length = 2 := rfl

@[simp] theorem crcBytes_length (c : U16) : (crcBytes c).length = 2 := rfl

@[simp] theorem requestHead_length (unit op : Byte) (addr v : U16) : (requestHead unit op addr v).length = 6 := rfl

/-- Reading back a 16-bit field from its two bytes. -/
@[simp] theorem ofBe16_be16 (v : U16) : ofBe16 (v.extractLsb' 8 8) (v.extractLsb' 0 8) = v := by
  simp only [ofBe16]
  ext k hk
  simp only [BitVec.getElem_append, BitVec.getElem_extractLsb']
  split
  · simp [BitVec.getLsbD_eq_getElem hk]
  · rw [show 8 + (k - 8) = k by omega, BitVec.getLsbD_eq_getElem hk]

/-- Two bytes make a 16-bit field whose bytes they are. -/
theorem be16_ofBe16 (hi lo : Byte) : be16 (ofBe16 hi lo) = [hi, lo] := by
  simp only [be16, ofBe16, List.cons.injEq, and_true]
  constructor
  · ext k hk
    rw [BitVec.getElem_extractLsb', ← BitVec.getLsbD_eq_getElem hk]
    exact (BitVec.getLsbD_append (x := hi) (y := lo)).trans (by simp)
  · ext k hk
    rw [BitVec.getElem_extractLsb', ← BitVec.getLsbD_eq_getElem hk]
    exact (BitVec.getLsbD_append (x := hi) (y := lo)).trans (by simp [hk])

theorem flatMap_be16_length (vs : List U16) : (vs.flatMap be16).length = 2 * vs.length := by
  induction vs with
  | nil => rfl
  | cons v vs ih => simp [ih]; omega

/-- The words of a big-endian byte sequence are the words it was made of. -/
@[simp] theorem wordsOf_flatMap_be16 (vs : List U16) : wordsOf (vs.flatMap be16) = vs := by
  induction vs with
  | nil => rfl
  | cons v vs ih =>
    show ofBe16 _ _ :: wordsOf (vs.flatMap be16) = v :: vs
    rw [ih, ofBe16_be16]

theorem wordsOf_length (bs : List Byte) : (wordsOf bs).length = bs.length / 2 := by
  induction bs using wordsOf.induct with
  | case1 hi lo bs ih => simp [wordsOf, ih]; omega
  | case2 b => simp [wordsOf]
  | case3 => rfl

/-- Word `i` is the big-endian pair at offset `2 * i`. -/
theorem wordsOf_getElem? (bs : List Byte) (i : Nat) (hi lo : Byte) (h1 : bs[2 * i]? = some hi)
    (h2 : bs[2 * i + 1]? = some lo) : (wordsOf bs)[i]? = some (ofBe16 hi lo) := by
  induction bs using wordsOf.induct generalizing i with
  | case1 a b bs ih =>
    cases i with
    | zero => simp at h1 h2; subst h1; subst h2; rfl
    | succ i =>
      rw [show 2 * (i + 1) = (2 * i + 1) + 1 by omega] at h1
      rw [show 2 * (i + 1) + 1 = (2 * i + 2) + 1 by omega] at h2
      simp only [wordsOf, List.getElem?_cons_succ] at h1 h2 ⊢
      exact ih i h1 h2
  | case2 b => cases i <;> simp at h2
  | case3 => simp at h1

/-! ## Packed bits -/

@[simp] theorem bitsOfByte_length (b : Byte) : (bitsOfByte b).length = 8 := rfl

theorem bitsOfByte_getElem? (b : Byte) {k : Nat} (hk : k < 8) : (bitsOfByte b)[k]? = some (b.getLsbD k) := by
  simp [bitsOfByte, hk]

theorem bitsOf_length (bs : List Byte) : (bitsOf bs).length = 8 * bs.length := by
  induction bs with
  | nil => rfl
  | cons b bs ih => simp [bitsOf, ih]; omega

/-- Element `i` of packed bits is bit `i % 8` of byte `i / 8` (20_memory.md R84). -/
theorem bitsOf_getElem? (bs : List Byte) (i : Nat) :
    (bitsOf bs)[i]? = (bs[i / 8]?).map fun b => b.getLsbD (i % 8) := by
  induction bs generalizing i with
  | nil => simp [bitsOf]
  | cons b bs ih =>
    simp only [bitsOf]
    by_cases h : i < 8
    · rw [List.getElem?_append_left (by simpa using h), bitsOfByte_getElem? b h, Nat.div_eq_of_lt h,
        Nat.mod_eq_of_lt h]
      rfl
    · rw [List.getElem?_append_right (by simp; omega), bitsOfByte_length, ih,
        show i / 8 = (i - 8) / 8 + 1 by omega, show i % 8 = (i - 8) % 8 by omega]
      rfl

/-- Bit `j` of the packed byte, for a sequence that starts at bit `k`. -/
theorem packFrom_getLsbD (s : List Bool) (k j : Nat) :
    (packFrom k s).getLsbD j = (decide (k ≤ j) && decide (j < 8) && s.getD (j - k) false) := by
  induction s generalizing k with
  | nil => simp [packFrom]
  | cons b s ih =>
    simp only [packFrom]
    split
    · rename_i hk
      rw [BitVec.getLsbD_or, ih]
      by_cases hj : j = k
      · subst hj
        cases b <;> simp [hk]
      · by_cases hlt : k < j
        · rw [show j - k = (j - (k + 1)) + 1 by omega]
          cases b <;> by_cases h8 : j < 8 <;>
            simp [BitVec.getLsbD_shiftLeft, h8, hlt, Nat.le_of_lt hlt, BitVec.getLsbD_one, Nat.sub_eq_zero_iff_le,
              Nat.not_le_of_lt hlt]
        · have : j < k := by omega
          cases b <;> simp [BitVec.getLsbD_shiftLeft, this, Nat.not_le_of_lt this] <;> omega
    · rename_i hk
      have : ¬ (k ≤ j ∧ j < 8) := by omega
      rw [BitVec.getLsbD_zero]
      by_cases h : k ≤ j
      · simp [h]; omega
      · simp [h]

/-- Bit `j` of the byte that packs a sequence is its element `j` (46_multiple_writes.md R322). -/
theorem packByte_getLsbD (s : List Bool) (j : Nat) :
    (packByte s).getLsbD j = (decide (j < 8) && s.getD j false) := by
  simp [packByte, packFrom_getLsbD]

@[simp] theorem packBits_length (n : Nat) (s : List Bool) : (packBits n s).length = n := by
  induction n generalizing s with
  | zero => rfl
  | succ n ih => simp [packBits, ih]

/-- Byte `j` of packed bits packs the elements from `8 * j` on. -/
theorem packBits_getElem? (n : Nat) (s : List Bool) (j : Nat) (hj : j < n) :
    (packBits n s)[j]? = some (packByte (s.drop (8 * j))) := by
  induction n generalizing s j with
  | zero => omega
  | succ n ih =>
    cases j with
    | zero => rfl
    | succ j =>
      simp only [packBits, List.getElem?_cons_succ]
      rw [ih _ _ (by omega), List.drop_drop]
      congr 3; omega

/-! ## Byte counts and request lengths -/

theorem bitByteCount_eq (q : Nat) : bitByteCount q = (q + 7) / 8 := rfl

theorem regByteCount_eq (q : Nat) : regByteCount q = 2 * q := rfl

@[simp] theorem coilsRequest_length (unit op : Byte) (addr qty : U16) (data : List Bool) :
    (coilsRequest unit op addr qty data).length = 7 + bitByteCount qty.toNat := by
  simp only [coilsRequest, List.length_append, requestHead_length, packBits_length, List.length_singleton]

theorem regsRequest_length (unit op : Byte) (addr qty : U16) (data : List U16) (h : qty.toNat ≤ data.length) :
    (regsRequest unit op addr qty data).length = 7 + 2 * qty.toNat := by
  simp only [regsRequest, List.length_append, requestHead_length, flatMap_be16_length, List.length_take,
    List.length_singleton]
  omega

/-- However few registers WDATA holds, the request is at most as long as the quantity asks. -/
theorem regsRequest_length_le (unit op : Byte) (addr qty : U16) (data : List U16) :
    (regsRequest unit op addr qty data).length ≤ 7 + 2 * qty.toNat := by
  simp only [regsRequest, List.length_append, requestHead_length, flatMap_be16_length, List.length_take,
    List.length_singleton]
  omega

/-! ## The CRC register -/

@[simp] theorem withCrc_length (bs : List Byte) : (withCrc bs).length = bs.length + 2 := by
  simp [withCrc]

theorem crcFrom_append (c : U16) (bs ds : List Byte) : crcFrom c (bs ++ ds) = crcFrom (crcFrom c bs) ds := by
  simp [crcFrom]

@[simp] theorem crcFrom_cons (c : U16) (b : Byte) (bs : List Byte) :
    crcFrom c (b :: bs) = crcFrom (crcByte c b) bs := rfl

@[simp] theorem crcFrom_nil (c : U16) : crcFrom c [] = c := rfl

/-- The two CRC bytes tell the CRC. -/
theorem crcBytes_injective {c d : U16} (h : crcBytes c = crcBytes d) : c = d := by
  simp only [crcBytes, List.cons.injEq, and_true] at h
  rw [← ofBe16_be16 c, ← ofBe16_be16 d, h.1, h.2]

end Sys2Proof.Machine
end

