-- ==== Sys2Proof/Laws/State.lean ====
section
/-! SUPPORT. One lemma per field and update of State, each true by rfl, so that no later proof unfolds a record update.
-/

namespace Sys2Proof.Machine

variable (s : State)

/-! ### `State.begin` -/

@[simp] theorem State.begin_cfgValid (rest : List Event) : (s.begin rest).cfgValid = s.cfgValid := rfl
@[simp] theorem State.begin_baud (rest : List Event) : (s.begin rest).baud = s.baud := rfl
@[simp] theorem State.begin_parity (rest : List Event) : (s.begin rest).parity = s.parity := rfl
@[simp] theorem State.begin_stop2 (rest : List Event) : (s.begin rest).stop2 = s.stop2 := rfl
@[simp] theorem State.begin_bpc (rest : List Event) : (s.begin rest).bpc = s.bpc := rfl
@[simp] theorem State.begin_charTo (rest : List Event) : (s.begin rest).charTo = s.charTo := rfl
@[simp] theorem State.begin_frameTo (rest : List Event) : (s.begin rest).frameTo = s.frameTo := rfl
@[simp] theorem State.begin_respTo (rest : List Event) : (s.begin rest).respTo = s.respTo := rfl
@[simp] theorem State.begin_txenEn (rest : List Event) : (s.begin rest).txenEn = s.txenEn := rfl
@[simp] theorem State.begin_txen (rest : List Event) : (s.begin rest).txen = s.txen := rfl
@[simp] theorem State.begin_fsm (rest : List Event) : (s.begin rest).fsm = s.fsm := rfl
@[simp] theorem State.begin_status (rest : List Event) : (s.begin rest).status = s.status := rfl
@[simp] theorem State.begin_exc (rest : List Event) : (s.begin rest).exc = s.exc := rfl
@[simp] theorem State.begin_outBits (rest : List Event) : (s.begin rest).outBits = s.outBits := rfl
@[simp] theorem State.begin_outRegs (rest : List Event) : (s.begin rest).outRegs = s.outRegs := rfl
@[simp] theorem State.begin_req (rest : List Event) : (s.begin rest).req = s.req := rfl
@[simp] theorem State.begin_buf (rest : List Event) : (s.begin rest).buf = s.buf := rfl
@[simp] theorem State.begin_len (rest : List Event) : (s.begin rest).len = s.len := rfl
@[simp] theorem State.begin_tStart (rest : List Event) : (s.begin rest).tStart = s.tStart := rfl
@[simp] theorem State.begin_tLast (rest : List Event) : (s.begin rest).tLast = s.tLast := rfl
@[simp] theorem State.begin_refused (rest : List Event) : (s.begin rest).refused = s.refused := rfl
@[simp] theorem State.begin_pending (rest : List Event) : (s.begin rest).pending = rest := rfl
@[simp] theorem State.begin_out (rest : List Event) : (s.begin rest).out = Output.quiet := rfl

/-! ### `State.driveTxen` -/

@[simp] theorem State.driveTxen_cfgValid : (s.driveTxen).cfgValid = s.cfgValid := rfl
@[simp] theorem State.driveTxen_baud : (s.driveTxen).baud = s.baud := rfl
@[simp] theorem State.driveTxen_parity : (s.driveTxen).parity = s.parity := rfl
@[simp] theorem State.driveTxen_stop2 : (s.driveTxen).stop2 = s.stop2 := rfl
@[simp] theorem State.driveTxen_bpc : (s.driveTxen).bpc = s.bpc := rfl
@[simp] theorem State.driveTxen_charTo : (s.driveTxen).charTo = s.charTo := rfl
@[simp] theorem State.driveTxen_frameTo : (s.driveTxen).frameTo = s.frameTo := rfl
@[simp] theorem State.driveTxen_respTo : (s.driveTxen).respTo = s.respTo := rfl
@[simp] theorem State.driveTxen_txenEn : (s.driveTxen).txenEn = s.txenEn := rfl
@[simp] theorem State.driveTxen_txen : (s.driveTxen).txen = s.txen := rfl
@[simp] theorem State.driveTxen_fsm : (s.driveTxen).fsm = s.fsm := rfl
@[simp] theorem State.driveTxen_status : (s.driveTxen).status = s.status := rfl
@[simp] theorem State.driveTxen_exc : (s.driveTxen).exc = s.exc := rfl
@[simp] theorem State.driveTxen_outBits : (s.driveTxen).outBits = s.outBits := rfl
@[simp] theorem State.driveTxen_outRegs : (s.driveTxen).outRegs = s.outRegs := rfl
@[simp] theorem State.driveTxen_req : (s.driveTxen).req = s.req := rfl
@[simp] theorem State.driveTxen_buf : (s.driveTxen).buf = s.buf := rfl
@[simp] theorem State.driveTxen_len : (s.driveTxen).len = s.len := rfl
@[simp] theorem State.driveTxen_tStart : (s.driveTxen).tStart = s.tStart := rfl
@[simp] theorem State.driveTxen_tLast : (s.driveTxen).tLast = s.tLast := rfl
@[simp] theorem State.driveTxen_refused : (s.driveTxen).refused = s.refused := rfl
@[simp] theorem State.driveTxen_pending : (s.driveTxen).pending = s.pending := rfl
@[simp] theorem State.driveTxen_out : (s.driveTxen).out = { s.out with txen := s.txen } := rfl

/-! ### `State.raise` -/

@[simp] theorem State.raise_cfgValid (st : Status) : (s.raise st).cfgValid = s.cfgValid := rfl
@[simp] theorem State.raise_baud (st : Status) : (s.raise st).baud = s.baud := rfl
@[simp] theorem State.raise_parity (st : Status) : (s.raise st).parity = s.parity := rfl
@[simp] theorem State.raise_stop2 (st : Status) : (s.raise st).stop2 = s.stop2 := rfl
@[simp] theorem State.raise_bpc (st : Status) : (s.raise st).bpc = s.bpc := rfl
@[simp] theorem State.raise_charTo (st : Status) : (s.raise st).charTo = s.charTo := rfl
@[simp] theorem State.raise_frameTo (st : Status) : (s.raise st).frameTo = s.frameTo := rfl
@[simp] theorem State.raise_respTo (st : Status) : (s.raise st).respTo = s.respTo := rfl
@[simp] theorem State.raise_txenEn (st : Status) : (s.raise st).txenEn = s.txenEn := rfl
@[simp] theorem State.raise_txen (st : Status) : (s.raise st).txen = s.txen := rfl
@[simp] theorem State.raise_fsm (st : Status) : (s.raise st).fsm = .idle := rfl
@[simp] theorem State.raise_status (st : Status) : (s.raise st).status = some st := rfl
@[simp] theorem State.raise_exc (st : Status) : (s.raise st).exc = s.exc := rfl
@[simp] theorem State.raise_outBits (st : Status) : (s.raise st).outBits = s.outBits := rfl
@[simp] theorem State.raise_outRegs (st : Status) : (s.raise st).outRegs = s.outRegs := rfl
@[simp] theorem State.raise_req (st : Status) : (s.raise st).req = s.req := rfl
@[simp] theorem State.raise_buf (st : Status) : (s.raise st).buf = s.buf := rfl
@[simp] theorem State.raise_len (st : Status) : (s.raise st).len = s.len := rfl
@[simp] theorem State.raise_tStart (st : Status) : (s.raise st).tStart = s.tStart := rfl
@[simp] theorem State.raise_tLast (st : Status) : (s.raise st).tLast = s.tLast := rfl
@[simp] theorem State.raise_refused (st : Status) : (s.raise st).refused = s.refused := rfl
@[simp] theorem State.raise_pending (st : Status) : (s.raise st).pending = s.pending := rfl
@[simp] theorem State.raise_out (st : Status) : (s.raise st).out = { s.out with done := true } := rfl

/-! ### `State.markRefused` -/

@[simp] theorem State.markRefused_cfgValid : (s.markRefused).cfgValid = s.cfgValid := rfl
@[simp] theorem State.markRefused_baud : (s.markRefused).baud = s.baud := rfl
@[simp] theorem State.markRefused_parity : (s.markRefused).parity = s.parity := rfl
@[simp] theorem State.markRefused_stop2 : (s.markRefused).stop2 = s.stop2 := rfl
@[simp] theorem State.markRefused_bpc : (s.markRefused).bpc = s.bpc := rfl
@[simp] theorem State.markRefused_charTo : (s.markRefused).charTo = s.charTo := rfl
@[simp] theorem State.markRefused_frameTo : (s.markRefused).frameTo = s.frameTo := rfl
@[simp] theorem State.markRefused_respTo : (s.markRefused).respTo = s.respTo := rfl
@[simp] theorem State.markRefused_txenEn : (s.markRefused).txenEn = s.txenEn := rfl
@[simp] theorem State.markRefused_txen : (s.markRefused).txen = s.txen := rfl
@[simp] theorem State.markRefused_fsm : (s.markRefused).fsm = s.fsm := rfl
@[simp] theorem State.markRefused_status : (s.markRefused).status = s.status := rfl
@[simp] theorem State.markRefused_exc : (s.markRefused).exc = s.exc := rfl
@[simp] theorem State.markRefused_outBits : (s.markRefused).outBits = s.outBits := rfl
@[simp] theorem State.markRefused_outRegs : (s.markRefused).outRegs = s.outRegs := rfl
@[simp] theorem State.markRefused_req : (s.markRefused).req = s.req := rfl
@[simp] theorem State.markRefused_buf : (s.markRefused).buf = s.buf := rfl
@[simp] theorem State.markRefused_len : (s.markRefused).len = s.len := rfl
@[simp] theorem State.markRefused_tStart : (s.markRefused).tStart = s.tStart := rfl
@[simp] theorem State.markRefused_tLast : (s.markRefused).tLast = s.tLast := rfl
@[simp] theorem State.markRefused_refused : (s.markRefused).refused = true := rfl
@[simp] theorem State.markRefused_pending : (s.markRefused).pending = s.pending := rfl
@[simp] theorem State.markRefused_out : (s.markRefused).out = s.out := rfl

/-! ### `State.beginExchange` -/

@[simp] theorem State.beginExchange_cfgValid (q : Req) (bs : List Byte) : (s.beginExchange q bs).cfgValid = s.cfgValid := rfl
@[simp] theorem State.beginExchange_baud (q : Req) (bs : List Byte) : (s.beginExchange q bs).baud = s.baud := rfl
@[simp] theorem State.beginExchange_parity (q : Req) (bs : List Byte) : (s.beginExchange q bs).parity = s.parity := rfl
@[simp] theorem State.beginExchange_stop2 (q : Req) (bs : List Byte) : (s.beginExchange q bs).stop2 = s.stop2 := rfl
@[simp] theorem State.beginExchange_bpc (q : Req) (bs : List Byte) : (s.beginExchange q bs).bpc = s.bpc := rfl
@[simp] theorem State.beginExchange_charTo (q : Req) (bs : List Byte) : (s.beginExchange q bs).charTo = s.charTo := rfl
@[simp] theorem State.beginExchange_frameTo (q : Req) (bs : List Byte) : (s.beginExchange q bs).frameTo = s.frameTo := rfl
@[simp] theorem State.beginExchange_respTo (q : Req) (bs : List Byte) : (s.beginExchange q bs).respTo = s.respTo := rfl
@[simp] theorem State.beginExchange_txenEn (q : Req) (bs : List Byte) : (s.beginExchange q bs).txenEn = s.txenEn := rfl
@[simp] theorem State.beginExchange_txen (q : Req) (bs : List Byte) : (s.beginExchange q bs).txen = s.txenEn := rfl
@[simp] theorem State.beginExchange_fsm (q : Req) (bs : List Byte) : (s.beginExchange q bs).fsm = .txWrite := rfl
@[simp] theorem State.beginExchange_status (q : Req) (bs : List Byte) : (s.beginExchange q bs).status = s.status := rfl
@[simp] theorem State.beginExchange_exc (q : Req) (bs : List Byte) : (s.beginExchange q bs).exc = none := rfl
@[simp] theorem State.beginExchange_outBits (q : Req) (bs : List Byte) : (s.beginExchange q bs).outBits = s.outBits := rfl
@[simp] theorem State.beginExchange_outRegs (q : Req) (bs : List Byte) : (s.beginExchange q bs).outRegs = s.outRegs := rfl
@[simp] theorem State.beginExchange_req (q : Req) (bs : List Byte) : (s.beginExchange q bs).req = q := rfl
@[simp] theorem State.beginExchange_buf (q : Req) (bs : List Byte) : (s.beginExchange q bs).buf = Cells.store 0 (withCrc bs) s.buf := rfl
@[simp] theorem State.beginExchange_len (q : Req) (bs : List Byte) : (s.beginExchange q bs).len = (withCrc bs).length := rfl
@[simp] theorem State.beginExchange_tStart (q : Req) (bs : List Byte) : (s.beginExchange q bs).tStart = s.tStart := rfl
@[simp] theorem State.beginExchange_tLast (q : Req) (bs : List Byte) : (s.beginExchange q bs).tLast = s.tLast := rfl
@[simp] theorem State.beginExchange_refused (q : Req) (bs : List Byte) : (s.beginExchange q bs).refused = s.refused := rfl
@[simp] theorem State.beginExchange_pending (q : Req) (bs : List Byte) : (s.beginExchange q bs).pending = s.pending := rfl
@[simp] theorem State.beginExchange_out (q : Req) (bs : List Byte) : (s.beginExchange q bs).out = s.out := rfl

/-! ### `State.sendFrame` -/

@[simp] theorem State.sendFrame_cfgValid (bs : List Byte) : (s.sendFrame bs).cfgValid = s.cfgValid := rfl
@[simp] theorem State.sendFrame_baud (bs : List Byte) : (s.sendFrame bs).baud = s.baud := rfl
@[simp] theorem State.sendFrame_parity (bs : List Byte) : (s.sendFrame bs).parity = s.parity := rfl
@[simp] theorem State.sendFrame_stop2 (bs : List Byte) : (s.sendFrame bs).stop2 = s.stop2 := rfl
@[simp] theorem State.sendFrame_bpc (bs : List Byte) : (s.sendFrame bs).bpc = s.bpc := rfl
@[simp] theorem State.sendFrame_charTo (bs : List Byte) : (s.sendFrame bs).charTo = s.charTo := rfl
@[simp] theorem State.sendFrame_frameTo (bs : List Byte) : (s.sendFrame bs).frameTo = s.frameTo := rfl
@[simp] theorem State.sendFrame_respTo (bs : List Byte) : (s.sendFrame bs).respTo = s.respTo := rfl
@[simp] theorem State.sendFrame_txenEn (bs : List Byte) : (s.sendFrame bs).txenEn = s.txenEn := rfl
@[simp] theorem State.sendFrame_txen (bs : List Byte) : (s.sendFrame bs).txen = s.txen := rfl
@[simp] theorem State.sendFrame_fsm (bs : List Byte) : (s.sendFrame bs).fsm = .txFlush := rfl
@[simp] theorem State.sendFrame_status (bs : List Byte) : (s.sendFrame bs).status = s.status := rfl
@[simp] theorem State.sendFrame_exc (bs : List Byte) : (s.sendFrame bs).exc = s.exc := rfl
@[simp] theorem State.sendFrame_outBits (bs : List Byte) : (s.sendFrame bs).outBits = s.outBits := rfl
@[simp] theorem State.sendFrame_outRegs (bs : List Byte) : (s.sendFrame bs).outRegs = s.outRegs := rfl
@[simp] theorem State.sendFrame_req (bs : List Byte) : (s.sendFrame bs).req = s.req := rfl
@[simp] theorem State.sendFrame_buf (bs : List Byte) : (s.sendFrame bs).buf = s.buf := rfl
@[simp] theorem State.sendFrame_len (bs : List Byte) : (s.sendFrame bs).len = s.len := rfl
@[simp] theorem State.sendFrame_tStart (bs : List Byte) : (s.sendFrame bs).tStart = s.tStart := rfl
@[simp] theorem State.sendFrame_tLast (bs : List Byte) : (s.sendFrame bs).tLast = s.tLast := rfl
@[simp] theorem State.sendFrame_refused (bs : List Byte) : (s.sendFrame bs).refused = s.refused := rfl
@[simp] theorem State.sendFrame_pending (bs : List Byte) : (s.sendFrame bs).pending = s.pending := rfl
@[simp] theorem State.sendFrame_out (bs : List Byte) : (s.sendFrame bs).out = { s.out with txWrite := some bs } := rfl

/-! ### `State.releaseTxen` -/

@[simp] theorem State.releaseTxen_cfgValid : (s.releaseTxen).cfgValid = s.cfgValid := rfl
@[simp] theorem State.releaseTxen_baud : (s.releaseTxen).baud = s.baud := rfl
@[simp] theorem State.releaseTxen_parity : (s.releaseTxen).parity = s.parity := rfl
@[simp] theorem State.releaseTxen_stop2 : (s.releaseTxen).stop2 = s.stop2 := rfl
@[simp] theorem State.releaseTxen_bpc : (s.releaseTxen).bpc = s.bpc := rfl
@[simp] theorem State.releaseTxen_charTo : (s.releaseTxen).charTo = s.charTo := rfl
@[simp] theorem State.releaseTxen_frameTo : (s.releaseTxen).frameTo = s.frameTo := rfl
@[simp] theorem State.releaseTxen_respTo : (s.releaseTxen).respTo = s.respTo := rfl
@[simp] theorem State.releaseTxen_txenEn : (s.releaseTxen).txenEn = s.txenEn := rfl
@[simp] theorem State.releaseTxen_txen : (s.releaseTxen).txen = false := rfl
@[simp] theorem State.releaseTxen_fsm : (s.releaseTxen).fsm = s.fsm := rfl
@[simp] theorem State.releaseTxen_status : (s.releaseTxen).status = s.status := rfl
@[simp] theorem State.releaseTxen_exc : (s.releaseTxen).exc = s.exc := rfl
@[simp] theorem State.releaseTxen_outBits : (s.releaseTxen).outBits = s.outBits := rfl
@[simp] theorem State.releaseTxen_outRegs : (s.releaseTxen).outRegs = s.outRegs := rfl
@[simp] theorem State.releaseTxen_req : (s.releaseTxen).req = s.req := rfl
@[simp] theorem State.releaseTxen_buf : (s.releaseTxen).buf = s.buf := rfl
@[simp] theorem State.releaseTxen_len : (s.releaseTxen).len = s.len := rfl
@[simp] theorem State.releaseTxen_tStart : (s.releaseTxen).tStart = s.tStart := rfl
@[simp] theorem State.releaseTxen_tLast : (s.releaseTxen).tLast = s.tLast := rfl
@[simp] theorem State.releaseTxen_refused : (s.releaseTxen).refused = s.refused := rfl
@[simp] theorem State.releaseTxen_pending : (s.releaseTxen).pending = s.pending := rfl
@[simp] theorem State.releaseTxen_out : (s.releaseTxen).out = s.out := rfl

/-! ### `State.startAwait` -/

@[simp] theorem State.startAwait_cfgValid (now : Time) : (s.startAwait now).cfgValid = s.cfgValid := rfl
@[simp] theorem State.startAwait_baud (now : Time) : (s.startAwait now).baud = s.baud := rfl
@[simp] theorem State.startAwait_parity (now : Time) : (s.startAwait now).parity = s.parity := rfl
@[simp] theorem State.startAwait_stop2 (now : Time) : (s.startAwait now).stop2 = s.stop2 := rfl
@[simp] theorem State.startAwait_bpc (now : Time) : (s.startAwait now).bpc = s.bpc := rfl
@[simp] theorem State.startAwait_charTo (now : Time) : (s.startAwait now).charTo = s.charTo := rfl
@[simp] theorem State.startAwait_frameTo (now : Time) : (s.startAwait now).frameTo = s.frameTo := rfl
@[simp] theorem State.startAwait_respTo (now : Time) : (s.startAwait now).respTo = s.respTo := rfl
@[simp] theorem State.startAwait_txenEn (now : Time) : (s.startAwait now).txenEn = s.txenEn := rfl
@[simp] theorem State.startAwait_txen (now : Time) : (s.startAwait now).txen = s.txen := rfl
@[simp] theorem State.startAwait_fsm (now : Time) : (s.startAwait now).fsm = .await := rfl
@[simp] theorem State.startAwait_status (now : Time) : (s.startAwait now).status = s.status := rfl
@[simp] theorem State.startAwait_exc (now : Time) : (s.startAwait now).exc = s.exc := rfl
@[simp] theorem State.startAwait_outBits (now : Time) : (s.startAwait now).outBits = s.outBits := rfl
@[simp] theorem State.startAwait_outRegs (now : Time) : (s.startAwait now).outRegs = s.outRegs := rfl
@[simp] theorem State.startAwait_req (now : Time) : (s.startAwait now).req = s.req := rfl
@[simp] theorem State.startAwait_buf (now : Time) : (s.startAwait now).buf = s.buf := rfl
@[simp] theorem State.startAwait_len (now : Time) : (s.startAwait now).len = 0 := rfl
@[simp] theorem State.startAwait_tStart (now : Time) : (s.startAwait now).tStart = some now := rfl
@[simp] theorem State.startAwait_tLast (now : Time) : (s.startAwait now).tLast = s.tLast := rfl
@[simp] theorem State.startAwait_refused (now : Time) : (s.startAwait now).refused = s.refused := rfl
@[simp] theorem State.startAwait_pending (now : Time) : (s.startAwait now).pending = s.pending := rfl
@[simp] theorem State.startAwait_out (now : Time) : (s.startAwait now).out = s.out := rfl

/-! ### `State.setLink` -/

@[simp] theorem State.setLink_cfgValid (b : TimeReg) (p : BitVec 2) (d : Bool) : (s.setLink b p d).cfgValid = true := rfl
@[simp] theorem State.setLink_baud (b : TimeReg) (p : BitVec 2) (d : Bool) : (s.setLink b p d).baud = some b := rfl
@[simp] theorem State.setLink_parity (b : TimeReg) (p : BitVec 2) (d : Bool) : (s.setLink b p d).parity = some p := rfl
@[simp] theorem State.setLink_stop2 (b : TimeReg) (p : BitVec 2) (d : Bool) : (s.setLink b p d).stop2 = some d := rfl
@[simp] theorem State.setLink_bpc (b : TimeReg) (p : BitVec 2) (d : Bool) : (s.setLink b p d).bpc = some (BitVec.ofNat 8 (bitsPerChar p d)) := rfl
@[simp] theorem State.setLink_charTo (b : TimeReg) (p : BitVec 2) (d : Bool) : (s.setLink b p d).charTo = some (BitVec.ofNat Config.toW (charTimeout (bitsPerChar p d) b.toNat)) := rfl
@[simp] theorem State.setLink_frameTo (b : TimeReg) (p : BitVec 2) (d : Bool) : (s.setLink b p d).frameTo = some (BitVec.ofNat Config.toW (frameTimeout (bitsPerChar p d) b.toNat)) := rfl
@[simp] theorem State.setLink_respTo (b : TimeReg) (p : BitVec 2) (d : Bool) : (s.setLink b p d).respTo = s.respTo := rfl
@[simp] theorem State.setLink_txenEn (b : TimeReg) (p : BitVec 2) (d : Bool) : (s.setLink b p d).txenEn = s.txenEn := rfl
@[simp] theorem State.setLink_txen (b : TimeReg) (p : BitVec 2) (d : Bool) : (s.setLink b p d).txen = s.txen := rfl
@[simp] theorem State.setLink_fsm (b : TimeReg) (p : BitVec 2) (d : Bool) : (s.setLink b p d).fsm = s.fsm := rfl
@[simp] theorem State.setLink_status (b : TimeReg) (p : BitVec 2) (d : Bool) : (s.setLink b p d).status = s.status := rfl
@[simp] theorem State.setLink_exc (b : TimeReg) (p : BitVec 2) (d : Bool) : (s.setLink b p d).exc = s.exc := rfl
@[simp] theorem State.setLink_outBits (b : TimeReg) (p : BitVec 2) (d : Bool) : (s.setLink b p d).outBits = s.outBits := rfl
@[simp] theorem State.setLink_outRegs (b : TimeReg) (p : BitVec 2) (d : Bool) : (s.setLink b p d).outRegs = s.outRegs := rfl
@[simp] theorem State.setLink_req (b : TimeReg) (p : BitVec 2) (d : Bool) : (s.setLink b p d).req = s.req := rfl
@[simp] theorem State.setLink_buf (b : TimeReg) (p : BitVec 2) (d : Bool) : (s.setLink b p d).buf = s.buf := rfl
@[simp] theorem State.setLink_len (b : TimeReg) (p : BitVec 2) (d : Bool) : (s.setLink b p d).len = s.len := rfl
@[simp] theorem State.setLink_tStart (b : TimeReg) (p : BitVec 2) (d : Bool) : (s.setLink b p d).tStart = s.tStart := rfl
@[simp] theorem State.setLink_tLast (b : TimeReg) (p : BitVec 2) (d : Bool) : (s.setLink b p d).tLast = s.tLast := rfl
@[simp] theorem State.setLink_refused (b : TimeReg) (p : BitVec 2) (d : Bool) : (s.setLink b p d).refused = s.refused := rfl
@[simp] theorem State.setLink_pending (b : TimeReg) (p : BitVec 2) (d : Bool) : (s.setLink b p d).pending = s.pending := rfl
@[simp] theorem State.setLink_out (b : TimeReg) (p : BitVec 2) (d : Bool) : (s.setLink b p d).out = s.out := rfl

/-! ### `State.setRespTo` -/

@[simp] theorem State.setRespTo_cfgValid (v : TimeReg) : (s.setRespTo v).cfgValid = s.cfgValid := rfl
@[simp] theorem State.setRespTo_baud (v : TimeReg) : (s.setRespTo v).baud = s.baud := rfl
@[simp] theorem State.setRespTo_parity (v : TimeReg) : (s.setRespTo v).parity = s.parity := rfl
@[simp] theorem State.setRespTo_stop2 (v : TimeReg) : (s.setRespTo v).stop2 = s.stop2 := rfl
@[simp] theorem State.setRespTo_bpc (v : TimeReg) : (s.setRespTo v).bpc = s.bpc := rfl
@[simp] theorem State.setRespTo_charTo (v : TimeReg) : (s.setRespTo v).charTo = s.charTo := rfl
@[simp] theorem State.setRespTo_frameTo (v : TimeReg) : (s.setRespTo v).frameTo = s.frameTo := rfl
@[simp] theorem State.setRespTo_respTo (v : TimeReg) : (s.setRespTo v).respTo = v := rfl
@[simp] theorem State.setRespTo_txenEn (v : TimeReg) : (s.setRespTo v).txenEn = s.txenEn := rfl
@[simp] theorem State.setRespTo_txen (v : TimeReg) : (s.setRespTo v).txen = s.txen := rfl
@[simp] theorem State.setRespTo_fsm (v : TimeReg) : (s.setRespTo v).fsm = s.fsm := rfl
@[simp] theorem State.setRespTo_status (v : TimeReg) : (s.setRespTo v).status = s.status := rfl
@[simp] theorem State.setRespTo_exc (v : TimeReg) : (s.setRespTo v).exc = s.exc := rfl
@[simp] theorem State.setRespTo_outBits (v : TimeReg) : (s.setRespTo v).outBits = s.outBits := rfl
@[simp] theorem State.setRespTo_outRegs (v : TimeReg) : (s.setRespTo v).outRegs = s.outRegs := rfl
@[simp] theorem State.setRespTo_req (v : TimeReg) : (s.setRespTo v).req = s.req := rfl
@[simp] theorem State.setRespTo_buf (v : TimeReg) : (s.setRespTo v).buf = s.buf := rfl
@[simp] theorem State.setRespTo_len (v : TimeReg) : (s.setRespTo v).len = s.len := rfl
@[simp] theorem State.setRespTo_tStart (v : TimeReg) : (s.setRespTo v).tStart = s.tStart := rfl
@[simp] theorem State.setRespTo_tLast (v : TimeReg) : (s.setRespTo v).tLast = s.tLast := rfl
@[simp] theorem State.setRespTo_refused (v : TimeReg) : (s.setRespTo v).refused = s.refused := rfl
@[simp] theorem State.setRespTo_pending (v : TimeReg) : (s.setRespTo v).pending = s.pending := rfl
@[simp] theorem State.setRespTo_out (v : TimeReg) : (s.setRespTo v).out = s.out := rfl

/-! ### `State.setTxenEn` -/

@[simp] theorem State.setTxenEn_cfgValid (en : Bool) : (s.setTxenEn en).cfgValid = s.cfgValid := rfl
@[simp] theorem State.setTxenEn_baud (en : Bool) : (s.setTxenEn en).baud = s.baud := rfl
@[simp] theorem State.setTxenEn_parity (en : Bool) : (s.setTxenEn en).parity = s.parity := rfl
@[simp] theorem State.setTxenEn_stop2 (en : Bool) : (s.setTxenEn en).stop2 = s.stop2 := rfl
@[simp] theorem State.setTxenEn_bpc (en : Bool) : (s.setTxenEn en).bpc = s.bpc := rfl
@[simp] theorem State.setTxenEn_charTo (en : Bool) : (s.setTxenEn en).charTo = s.charTo := rfl
@[simp] theorem State.setTxenEn_frameTo (en : Bool) : (s.setTxenEn en).frameTo = s.frameTo := rfl
@[simp] theorem State.setTxenEn_respTo (en : Bool) : (s.setTxenEn en).respTo = s.respTo := rfl
@[simp] theorem State.setTxenEn_txenEn (en : Bool) : (s.setTxenEn en).txenEn = en := rfl
@[simp] theorem State.setTxenEn_txen (en : Bool) : (s.setTxenEn en).txen = s.txen := rfl
@[simp] theorem State.setTxenEn_fsm (en : Bool) : (s.setTxenEn en).fsm = s.fsm := rfl
@[simp] theorem State.setTxenEn_status (en : Bool) : (s.setTxenEn en).status = s.status := rfl
@[simp] theorem State.setTxenEn_exc (en : Bool) : (s.setTxenEn en).exc = s.exc := rfl
@[simp] theorem State.setTxenEn_outBits (en : Bool) : (s.setTxenEn en).outBits = s.outBits := rfl
@[simp] theorem State.setTxenEn_outRegs (en : Bool) : (s.setTxenEn en).outRegs = s.outRegs := rfl
@[simp] theorem State.setTxenEn_req (en : Bool) : (s.setTxenEn en).req = s.req := rfl
@[simp] theorem State.setTxenEn_buf (en : Bool) : (s.setTxenEn en).buf = s.buf := rfl
@[simp] theorem State.setTxenEn_len (en : Bool) : (s.setTxenEn en).len = s.len := rfl
@[simp] theorem State.setTxenEn_tStart (en : Bool) : (s.setTxenEn en).tStart = s.tStart := rfl
@[simp] theorem State.setTxenEn_tLast (en : Bool) : (s.setTxenEn en).tLast = s.tLast := rfl
@[simp] theorem State.setTxenEn_refused (en : Bool) : (s.setTxenEn en).refused = s.refused := rfl
@[simp] theorem State.setTxenEn_pending (en : Bool) : (s.setTxenEn en).pending = s.pending := rfl
@[simp] theorem State.setTxenEn_out (en : Bool) : (s.setTxenEn en).out = s.out := rfl

/-! ### `State.clearExc` -/

@[simp] theorem State.clearExc_cfgValid : (s.clearExc).cfgValid = s.cfgValid := rfl
@[simp] theorem State.clearExc_baud : (s.clearExc).baud = s.baud := rfl
@[simp] theorem State.clearExc_parity : (s.clearExc).parity = s.parity := rfl
@[simp] theorem State.clearExc_stop2 : (s.clearExc).stop2 = s.stop2 := rfl
@[simp] theorem State.clearExc_bpc : (s.clearExc).bpc = s.bpc := rfl
@[simp] theorem State.clearExc_charTo : (s.clearExc).charTo = s.charTo := rfl
@[simp] theorem State.clearExc_frameTo : (s.clearExc).frameTo = s.frameTo := rfl
@[simp] theorem State.clearExc_respTo : (s.clearExc).respTo = s.respTo := rfl
@[simp] theorem State.clearExc_txenEn : (s.clearExc).txenEn = s.txenEn := rfl
@[simp] theorem State.clearExc_txen : (s.clearExc).txen = s.txen := rfl
@[simp] theorem State.clearExc_fsm : (s.clearExc).fsm = s.fsm := rfl
@[simp] theorem State.clearExc_status : (s.clearExc).status = s.status := rfl
@[simp] theorem State.clearExc_exc : (s.clearExc).exc = none := rfl
@[simp] theorem State.clearExc_outBits : (s.clearExc).outBits = s.outBits := rfl
@[simp] theorem State.clearExc_outRegs : (s.clearExc).outRegs = s.outRegs := rfl
@[simp] theorem State.clearExc_req : (s.clearExc).req = s.req := rfl
@[simp] theorem State.clearExc_buf : (s.clearExc).buf = s.buf := rfl
@[simp] theorem State.clearExc_len : (s.clearExc).len = s.len := rfl
@[simp] theorem State.clearExc_tStart : (s.clearExc).tStart = s.tStart := rfl
@[simp] theorem State.clearExc_tLast : (s.clearExc).tLast = s.tLast := rfl
@[simp] theorem State.clearExc_refused : (s.clearExc).refused = s.refused := rfl
@[simp] theorem State.clearExc_pending : (s.clearExc).pending = s.pending := rfl
@[simp] theorem State.clearExc_out : (s.clearExc).out = s.out := rfl

/-! ### `State.captureExc` -/

@[simp] theorem State.captureExc_cfgValid (code : Byte) : (s.captureExc code).cfgValid = s.cfgValid := rfl
@[simp] theorem State.captureExc_baud (code : Byte) : (s.captureExc code).baud = s.baud := rfl
@[simp] theorem State.captureExc_parity (code : Byte) : (s.captureExc code).parity = s.parity := rfl
@[simp] theorem State.captureExc_stop2 (code : Byte) : (s.captureExc code).stop2 = s.stop2 := rfl
@[simp] theorem State.captureExc_bpc (code : Byte) : (s.captureExc code).bpc = s.bpc := rfl
@[simp] theorem State.captureExc_charTo (code : Byte) : (s.captureExc code).charTo = s.charTo := rfl
@[simp] theorem State.captureExc_frameTo (code : Byte) : (s.captureExc code).frameTo = s.frameTo := rfl
@[simp] theorem State.captureExc_respTo (code : Byte) : (s.captureExc code).respTo = s.respTo := rfl
@[simp] theorem State.captureExc_txenEn (code : Byte) : (s.captureExc code).txenEn = s.txenEn := rfl
@[simp] theorem State.captureExc_txen (code : Byte) : (s.captureExc code).txen = s.txen := rfl
@[simp] theorem State.captureExc_fsm (code : Byte) : (s.captureExc code).fsm = s.fsm := rfl
@[simp] theorem State.captureExc_status (code : Byte) : (s.captureExc code).status = s.status := rfl
@[simp] theorem State.captureExc_exc (code : Byte) : (s.captureExc code).exc = some code := rfl
@[simp] theorem State.captureExc_outBits (code : Byte) : (s.captureExc code).outBits = s.outBits := rfl
@[simp] theorem State.captureExc_outRegs (code : Byte) : (s.captureExc code).outRegs = s.outRegs := rfl
@[simp] theorem State.captureExc_req (code : Byte) : (s.captureExc code).req = s.req := rfl
@[simp] theorem State.captureExc_buf (code : Byte) : (s.captureExc code).buf = s.buf := rfl
@[simp] theorem State.captureExc_len (code : Byte) : (s.captureExc code).len = s.len := rfl
@[simp] theorem State.captureExc_tStart (code : Byte) : (s.captureExc code).tStart = s.tStart := rfl
@[simp] theorem State.captureExc_tLast (code : Byte) : (s.captureExc code).tLast = s.tLast := rfl
@[simp] theorem State.captureExc_refused (code : Byte) : (s.captureExc code).refused = s.refused := rfl
@[simp] theorem State.captureExc_pending (code : Byte) : (s.captureExc code).pending = s.pending := rfl
@[simp] theorem State.captureExc_out (code : Byte) : (s.captureExc code).out = s.out := rfl

/-! ### `State.unpackBits` -/

@[simp] theorem State.unpackBits_cfgValid (n : Nat) (bs : List Byte) : (s.unpackBits n bs).cfgValid = s.cfgValid := rfl
@[simp] theorem State.unpackBits_baud (n : Nat) (bs : List Byte) : (s.unpackBits n bs).baud = s.baud := rfl
@[simp] theorem State.unpackBits_parity (n : Nat) (bs : List Byte) : (s.unpackBits n bs).parity = s.parity := rfl
@[simp] theorem State.unpackBits_stop2 (n : Nat) (bs : List Byte) : (s.unpackBits n bs).stop2 = s.stop2 := rfl
@[simp] theorem State.unpackBits_bpc (n : Nat) (bs : List Byte) : (s.unpackBits n bs).bpc = s.bpc := rfl
@[simp] theorem State.unpackBits_charTo (n : Nat) (bs : List Byte) : (s.unpackBits n bs).charTo = s.charTo := rfl
@[simp] theorem State.unpackBits_frameTo (n : Nat) (bs : List Byte) : (s.unpackBits n bs).frameTo = s.frameTo := rfl
@[simp] theorem State.unpackBits_respTo (n : Nat) (bs : List Byte) : (s.unpackBits n bs).respTo = s.respTo := rfl
@[simp] theorem State.unpackBits_txenEn (n : Nat) (bs : List Byte) : (s.unpackBits n bs).txenEn = s.txenEn := rfl
@[simp] theorem State.unpackBits_txen (n : Nat) (bs : List Byte) : (s.unpackBits n bs).txen = s.txen := rfl
@[simp] theorem State.unpackBits_fsm (n : Nat) (bs : List Byte) : (s.unpackBits n bs).fsm = s.fsm := rfl
@[simp] theorem State.unpackBits_status (n : Nat) (bs : List Byte) : (s.unpackBits n bs).status = s.status := rfl
@[simp] theorem State.unpackBits_exc (n : Nat) (bs : List Byte) : (s.unpackBits n bs).exc = s.exc := rfl
@[simp] theorem State.unpackBits_outBits (n : Nat) (bs : List Byte) : (s.unpackBits n bs).outBits = Cells.store 0 ((bitsOf bs).take n) s.outBits := rfl
@[simp] theorem State.unpackBits_outRegs (n : Nat) (bs : List Byte) : (s.unpackBits n bs).outRegs = s.outRegs := rfl
@[simp] theorem State.unpackBits_req (n : Nat) (bs : List Byte) : (s.unpackBits n bs).req = s.req := rfl
@[simp] theorem State.unpackBits_buf (n : Nat) (bs : List Byte) : (s.unpackBits n bs).buf = s.buf := rfl
@[simp] theorem State.unpackBits_len (n : Nat) (bs : List Byte) : (s.unpackBits n bs).len = s.len := rfl
@[simp] theorem State.unpackBits_tStart (n : Nat) (bs : List Byte) : (s.unpackBits n bs).tStart = s.tStart := rfl
@[simp] theorem State.unpackBits_tLast (n : Nat) (bs : List Byte) : (s.unpackBits n bs).tLast = s.tLast := rfl
@[simp] theorem State.unpackBits_refused (n : Nat) (bs : List Byte) : (s.unpackBits n bs).refused = s.refused := rfl
@[simp] theorem State.unpackBits_pending (n : Nat) (bs : List Byte) : (s.unpackBits n bs).pending = s.pending := rfl
@[simp] theorem State.unpackBits_out (n : Nat) (bs : List Byte) : (s.unpackBits n bs).out = s.out := rfl

/-! ### `State.unpackRegs` -/

@[simp] theorem State.unpackRegs_cfgValid (n : Nat) (bs : List Byte) : (s.unpackRegs n bs).cfgValid = s.cfgValid := rfl
@[simp] theorem State.unpackRegs_baud (n : Nat) (bs : List Byte) : (s.unpackRegs n bs).baud = s.baud := rfl
@[simp] theorem State.unpackRegs_parity (n : Nat) (bs : List Byte) : (s.unpackRegs n bs).parity = s.parity := rfl
@[simp] theorem State.unpackRegs_stop2 (n : Nat) (bs : List Byte) : (s.unpackRegs n bs).stop2 = s.stop2 := rfl
@[simp] theorem State.unpackRegs_bpc (n : Nat) (bs : List Byte) : (s.unpackRegs n bs).bpc = s.bpc := rfl
@[simp] theorem State.unpackRegs_charTo (n : Nat) (bs : List Byte) : (s.unpackRegs n bs).charTo = s.charTo := rfl
@[simp] theorem State.unpackRegs_frameTo (n : Nat) (bs : List Byte) : (s.unpackRegs n bs).frameTo = s.frameTo := rfl
@[simp] theorem State.unpackRegs_respTo (n : Nat) (bs : List Byte) : (s.unpackRegs n bs).respTo = s.respTo := rfl
@[simp] theorem State.unpackRegs_txenEn (n : Nat) (bs : List Byte) : (s.unpackRegs n bs).txenEn = s.txenEn := rfl
@[simp] theorem State.unpackRegs_txen (n : Nat) (bs : List Byte) : (s.unpackRegs n bs).txen = s.txen := rfl
@[simp] theorem State.unpackRegs_fsm (n : Nat) (bs : List Byte) : (s.unpackRegs n bs).fsm = s.fsm := rfl
@[simp] theorem State.unpackRegs_status (n : Nat) (bs : List Byte) : (s.unpackRegs n bs).status = s.status := rfl
@[simp] theorem State.unpackRegs_exc (n : Nat) (bs : List Byte) : (s.unpackRegs n bs).exc = s.exc := rfl
@[simp] theorem State.unpackRegs_outBits (n : Nat) (bs : List Byte) : (s.unpackRegs n bs).outBits = s.outBits := rfl
@[simp] theorem State.unpackRegs_outRegs (n : Nat) (bs : List Byte) : (s.unpackRegs n bs).outRegs = Cells.store 0 ((wordsOf bs).take n) s.outRegs := rfl
@[simp] theorem State.unpackRegs_req (n : Nat) (bs : List Byte) : (s.unpackRegs n bs).req = s.req := rfl
@[simp] theorem State.unpackRegs_buf (n : Nat) (bs : List Byte) : (s.unpackRegs n bs).buf = s.buf := rfl
@[simp] theorem State.unpackRegs_len (n : Nat) (bs : List Byte) : (s.unpackRegs n bs).len = s.len := rfl
@[simp] theorem State.unpackRegs_tStart (n : Nat) (bs : List Byte) : (s.unpackRegs n bs).tStart = s.tStart := rfl
@[simp] theorem State.unpackRegs_tLast (n : Nat) (bs : List Byte) : (s.unpackRegs n bs).tLast = s.tLast := rfl
@[simp] theorem State.unpackRegs_refused (n : Nat) (bs : List Byte) : (s.unpackRegs n bs).refused = s.refused := rfl
@[simp] theorem State.unpackRegs_pending (n : Nat) (bs : List Byte) : (s.unpackRegs n bs).pending = s.pending := rfl
@[simp] theorem State.unpackRegs_out (n : Nat) (bs : List Byte) : (s.unpackRegs n bs).out = s.out := rfl

/-! ### `State.takeRx` -/

@[simp] theorem State.takeRx_cfgValid : (s.takeRx).cfgValid = s.cfgValid := rfl
@[simp] theorem State.takeRx_baud : (s.takeRx).baud = s.baud := rfl
@[simp] theorem State.takeRx_parity : (s.takeRx).parity = s.parity := rfl
@[simp] theorem State.takeRx_stop2 : (s.takeRx).stop2 = s.stop2 := rfl
@[simp] theorem State.takeRx_bpc : (s.takeRx).bpc = s.bpc := rfl
@[simp] theorem State.takeRx_charTo : (s.takeRx).charTo = s.charTo := rfl
@[simp] theorem State.takeRx_frameTo : (s.takeRx).frameTo = s.frameTo := rfl
@[simp] theorem State.takeRx_respTo : (s.takeRx).respTo = s.respTo := rfl
@[simp] theorem State.takeRx_txenEn : (s.takeRx).txenEn = s.txenEn := rfl
@[simp] theorem State.takeRx_txen : (s.takeRx).txen = s.txen := rfl
@[simp] theorem State.takeRx_fsm : (s.takeRx).fsm = s.fsm := rfl
@[simp] theorem State.takeRx_status : (s.takeRx).status = s.status := rfl
@[simp] theorem State.takeRx_exc : (s.takeRx).exc = s.exc := rfl
@[simp] theorem State.takeRx_outBits : (s.takeRx).outBits = s.outBits := rfl
@[simp] theorem State.takeRx_outRegs : (s.takeRx).outRegs = s.outRegs := rfl
@[simp] theorem State.takeRx_req : (s.takeRx).req = s.req := rfl
@[simp] theorem State.takeRx_buf : (s.takeRx).buf = s.buf := rfl
@[simp] theorem State.takeRx_len : (s.takeRx).len = s.len := rfl
@[simp] theorem State.takeRx_tStart : (s.takeRx).tStart = s.tStart := rfl
@[simp] theorem State.takeRx_tLast : (s.takeRx).tLast = s.tLast := rfl
@[simp] theorem State.takeRx_refused : (s.takeRx).refused = s.refused := rfl
@[simp] theorem State.takeRx_pending : (s.takeRx).pending = s.pending := rfl
@[simp] theorem State.takeRx_out : (s.takeRx).out = { s.out with rxTake := true } := rfl

/-! ### `State.storeRx` -/

@[simp] theorem State.storeRx_cfgValid (b : Byte) (now : Time) : (s.storeRx b now).cfgValid = s.cfgValid := rfl
@[simp] theorem State.storeRx_baud (b : Byte) (now : Time) : (s.storeRx b now).baud = s.baud := rfl
@[simp] theorem State.storeRx_parity (b : Byte) (now : Time) : (s.storeRx b now).parity = s.parity := rfl
@[simp] theorem State.storeRx_stop2 (b : Byte) (now : Time) : (s.storeRx b now).stop2 = s.stop2 := rfl
@[simp] theorem State.storeRx_bpc (b : Byte) (now : Time) : (s.storeRx b now).bpc = s.bpc := rfl
@[simp] theorem State.storeRx_charTo (b : Byte) (now : Time) : (s.storeRx b now).charTo = s.charTo := rfl
@[simp] theorem State.storeRx_frameTo (b : Byte) (now : Time) : (s.storeRx b now).frameTo = s.frameTo := rfl
@[simp] theorem State.storeRx_respTo (b : Byte) (now : Time) : (s.storeRx b now).respTo = s.respTo := rfl
@[simp] theorem State.storeRx_txenEn (b : Byte) (now : Time) : (s.storeRx b now).txenEn = s.txenEn := rfl
@[simp] theorem State.storeRx_txen (b : Byte) (now : Time) : (s.storeRx b now).txen = s.txen := rfl
@[simp] theorem State.storeRx_fsm (b : Byte) (now : Time) : (s.storeRx b now).fsm = .accum := rfl
@[simp] theorem State.storeRx_status (b : Byte) (now : Time) : (s.storeRx b now).status = s.status := rfl
@[simp] theorem State.storeRx_exc (b : Byte) (now : Time) : (s.storeRx b now).exc = s.exc := rfl
@[simp] theorem State.storeRx_outBits (b : Byte) (now : Time) : (s.storeRx b now).outBits = s.outBits := rfl
@[simp] theorem State.storeRx_outRegs (b : Byte) (now : Time) : (s.storeRx b now).outRegs = s.outRegs := rfl
@[simp] theorem State.storeRx_req (b : Byte) (now : Time) : (s.storeRx b now).req = s.req := rfl
@[simp] theorem State.storeRx_buf (b : Byte) (now : Time) : (s.storeRx b now).buf = Cells.set s.len b s.buf := rfl
@[simp] theorem State.storeRx_len (b : Byte) (now : Time) : (s.storeRx b now).len = s.len + 1 := rfl
@[simp] theorem State.storeRx_tStart (b : Byte) (now : Time) : (s.storeRx b now).tStart = s.tStart := rfl
@[simp] theorem State.storeRx_tLast (b : Byte) (now : Time) : (s.storeRx b now).tLast = some now := rfl
@[simp] theorem State.storeRx_refused (b : Byte) (now : Time) : (s.storeRx b now).refused = s.refused := rfl
@[simp] theorem State.storeRx_pending (b : Byte) (now : Time) : (s.storeRx b now).pending = s.pending := rfl
@[simp] theorem State.storeRx_out (b : Byte) (now : Time) : (s.storeRx b now).out = s.out := rfl

/-! ### `State.toConfirm` -/

@[simp] theorem State.toConfirm_cfgValid : (s.toConfirm).cfgValid = s.cfgValid := rfl
@[simp] theorem State.toConfirm_baud : (s.toConfirm).baud = s.baud := rfl
@[simp] theorem State.toConfirm_parity : (s.toConfirm).parity = s.parity := rfl
@[simp] theorem State.toConfirm_stop2 : (s.toConfirm).stop2 = s.stop2 := rfl
@[simp] theorem State.toConfirm_bpc : (s.toConfirm).bpc = s.bpc := rfl
@[simp] theorem State.toConfirm_charTo : (s.toConfirm).charTo = s.charTo := rfl
@[simp] theorem State.toConfirm_frameTo : (s.toConfirm).frameTo = s.frameTo := rfl
@[simp] theorem State.toConfirm_respTo : (s.toConfirm).respTo = s.respTo := rfl
@[simp] theorem State.toConfirm_txenEn : (s.toConfirm).txenEn = s.txenEn := rfl
@[simp] theorem State.toConfirm_txen : (s.toConfirm).txen = s.txen := rfl
@[simp] theorem State.toConfirm_fsm : (s.toConfirm).fsm = .confirm := rfl
@[simp] theorem State.toConfirm_status : (s.toConfirm).status = s.status := rfl
@[simp] theorem State.toConfirm_exc : (s.toConfirm).exc = s.exc := rfl
@[simp] theorem State.toConfirm_outBits : (s.toConfirm).outBits = s.outBits := rfl
@[simp] theorem State.toConfirm_outRegs : (s.toConfirm).outRegs = s.outRegs := rfl
@[simp] theorem State.toConfirm_req : (s.toConfirm).req = s.req := rfl
@[simp] theorem State.toConfirm_buf : (s.toConfirm).buf = s.buf := rfl
@[simp] theorem State.toConfirm_len : (s.toConfirm).len = s.len := rfl
@[simp] theorem State.toConfirm_tStart : (s.toConfirm).tStart = s.tStart := rfl
@[simp] theorem State.toConfirm_tLast : (s.toConfirm).tLast = s.tLast := rfl
@[simp] theorem State.toConfirm_refused : (s.toConfirm).refused = s.refused := rfl
@[simp] theorem State.toConfirm_pending : (s.toConfirm).pending = s.pending := rfl
@[simp] theorem State.toConfirm_out : (s.toConfirm).out = s.out := rfl

/-! ### `State.resetEvent` -/

/-- The reset event is the reset state but for REFUSED and what is pending. -/
@[simp] theorem State.resetEvent_cfgValid (rest : List Event) : (s.resetEvent rest).cfgValid = State.reset.cfgValid := rfl
@[simp] theorem State.resetEvent_baud (rest : List Event) : (s.resetEvent rest).baud = State.reset.baud := rfl
@[simp] theorem State.resetEvent_parity (rest : List Event) : (s.resetEvent rest).parity = State.reset.parity := rfl
@[simp] theorem State.resetEvent_stop2 (rest : List Event) : (s.resetEvent rest).stop2 = State.reset.stop2 := rfl
@[simp] theorem State.resetEvent_bpc (rest : List Event) : (s.resetEvent rest).bpc = State.reset.bpc := rfl
@[simp] theorem State.resetEvent_charTo (rest : List Event) : (s.resetEvent rest).charTo = State.reset.charTo := rfl
@[simp] theorem State.resetEvent_frameTo (rest : List Event) : (s.resetEvent rest).frameTo = State.reset.frameTo := rfl
@[simp] theorem State.resetEvent_respTo (rest : List Event) : (s.resetEvent rest).respTo = State.reset.respTo := rfl
@[simp] theorem State.resetEvent_txenEn (rest : List Event) : (s.resetEvent rest).txenEn = State.reset.txenEn := rfl
@[simp] theorem State.resetEvent_txen (rest : List Event) : (s.resetEvent rest).txen = State.reset.txen := rfl
@[simp] theorem State.resetEvent_fsm (rest : List Event) : (s.resetEvent rest).fsm = State.reset.fsm := rfl
@[simp] theorem State.resetEvent_status (rest : List Event) : (s.resetEvent rest).status = State.reset.status := rfl
@[simp] theorem State.resetEvent_exc (rest : List Event) : (s.resetEvent rest).exc = State.reset.exc := rfl
@[simp] theorem State.resetEvent_outBits (rest : List Event) : (s.resetEvent rest).outBits = State.reset.outBits := rfl
@[simp] theorem State.resetEvent_outRegs (rest : List Event) : (s.resetEvent rest).outRegs = State.reset.outRegs := rfl
@[simp] theorem State.resetEvent_req (rest : List Event) : (s.resetEvent rest).req = State.reset.req := rfl
@[simp] theorem State.resetEvent_buf (rest : List Event) : (s.resetEvent rest).buf = State.reset.buf := rfl
@[simp] theorem State.resetEvent_len (rest : List Event) : (s.resetEvent rest).len = State.reset.len := rfl
@[simp] theorem State.resetEvent_tStart (rest : List Event) : (s.resetEvent rest).tStart = State.reset.tStart := rfl
@[simp] theorem State.resetEvent_tLast (rest : List Event) : (s.resetEvent rest).tLast = State.reset.tLast := rfl
@[simp] theorem State.resetEvent_refused (rest : List Event) : (s.resetEvent rest).refused = s.refused := rfl
@[simp] theorem State.resetEvent_pending (rest : List Event) : (s.resetEvent rest).pending = rest := rfl
@[simp] theorem State.resetEvent_out (rest : List Event) : (s.resetEvent rest).out = State.reset.out := rfl

/-! ### Derived registers -/

/-- `comm_fail` is a raise. -/
@[simp] theorem State.commFail_eq (e : CommError) : s.commFail e = s.raise e.status := rfl

theorem State.busy_iff : s.busy = true ↔ s.fsm ≠ .idle := by
  simp [State.busy]

theorem State.not_busy_iff : s.busy = false ↔ s.fsm = .idle := by
  simp [State.busy]

/-- The frame bytes depend on BUF and LEN alone. -/
theorem State.frameBytes_congr {s t : State} (hb : t.buf = s.buf) (hl : t.len = s.len) :
    t.frameBytes = s.frameBytes := by
  simp [State.frameBytes, hb, hl]

end Sys2Proof.Machine
end

