-- ==== Sys2Proof/Laws/Time.lean ====
section
/-! SUPPORT. The widths of the time base and of the time registers as numbers, and the three timeout tests as comparisons
of naturals. -/

namespace Sys2Proof

@[simp] theorem Config.timeW_eq : Config.timeW = 32 := rfl

@[simp] theorem Config.toW_eq : Config.toW = 32 := rfl

namespace Machine

@[simp] theorem respExpired_eq (now : Time) (tStart respTo : TimeReg) :
    respExpired now tStart respTo = decide (respTo.toNat ≤ (elapsed now tStart).toNat) := rfl

@[simp] theorem charGap_eq (now : Time) (tLast charTo : TimeReg) :
    charGap now tLast charTo = decide (charTo.toNat < (elapsed now tLast).toNat) := rfl

@[simp] theorem frameGap_eq (now : Time) (tLast frameTo : TimeReg) :
    frameGap now tLast frameTo = decide (frameTo.toNat ≤ (elapsed now tLast).toNat) := rfl

end Machine

end Sys2Proof
end

