-- ==== Sys2Proof/Laws/Steps.lean ====
section
/-! SUPPORT. What each shared operation and each action of the FSM can do, said once: if it answers next, the next state
is one of these. -/

namespace Sys2Proof.Machine

/-! ## Outcomes -/

@[simp] theorem need_some {α : Type} (v : α) (f : Fault) (k : α → Result) : need (some v) f k = k v := rfl

@[simp] theorem need_none {α : Type} (f : Fault) (k : α → Result) : need none f k = .fault f := rfl

theorem need_next {α : Type} {r : Option α} {f : Fault} {k : α → Result} {t : State} :
    need r f k = .next t ↔ ∃ v, r = some v ∧ k v = .next t := by
  cases r <;> simp

theorem need_refused {α : Type} {r : Option α} {f : Fault} {k : α → Result} {x : Refusal} :
    need r f k = .refused x ↔ ∃ v, r = some v ∧ k v = .refused x := by
  cases r <;> simp

theorem need_fault {α : Type} {r : Option α} {f g : Fault} {k : α → Result} :
    need r f k = .fault g ↔ (r = none ∧ g = f) ∨ ∃ v, r = some v ∧ k v = .fault g := by
  cases r <;> simp [eq_comm]

@[simp] theorem endStep_next (t : State) : endStep (.next t) = .next t.driveTxen := rfl

@[simp] theorem endStep_fault (f : Fault) : endStep (.fault f) = .fault f := rfl

@[simp] theorem endStep_refused (f : Refusal) : endStep (.refused f) = .refused f := rfl

theorem endStep_eq_next {r : Result} {t : State} : endStep r = .next t ↔ ∃ u, r = .next u ∧ t = u.driveTxen := by
  cases r <;> simp [eq_comm]

theorem endStep_eq_refused {r : Result} {x : Refusal} : endStep r = .refused x ↔ r = .refused x := by
  cases r <;> simp

theorem endStep_eq_fault {r : Result} {f : Fault} : endStep r = .fault f ↔ r = .fault f := by
  cases r <;> simp

/-! ## The step -/

theorem step_eq (s : State) : step s = eventStep s := rfl

@[simp] theorem step_refusedState {s : State} (h : s.refused = true) : step s = .fault .refusedForGood := by
  simp [step, eventStep, h]

theorem step_noInput {s : State} (h : s.refused = false) (hp : s.pending = []) : step s = .fault .noInput := by
  simp [step, eventStep, h, hp]

theorem step_reset {s : State} {rest : List Event} (h : s.refused = false) (hp : s.pending = .reset :: rest) :
    step s = .next (s.resetEvent rest) := by
  simp [step, eventStep, h, hp]

theorem step_poll {s : State} {i : Input} {rest : List Event} (h : s.refused = false)
    (hp : s.pending = .poll i :: rest) : step s = pollStep i (s.begin rest) := by
  simp [step, eventStep, h, hp]

/-- What a step that answers next has taken: a reset event or a poll. -/
theorem step_next_cases {s t : State} (h : step s = .next t) :
    s.refused = false ∧
      ((∃ rest, s.pending = .reset :: rest ∧ t = s.resetEvent rest) ∨
       (∃ i rest, s.pending = .poll i :: rest ∧ pollStep i (s.begin rest) = .next t)) := by
  cases hr : s.refused with
  | true => rw [step_refusedState hr] at h; cases h
  | false =>
    refine ⟨rfl, ?_⟩
    cases hp : s.pending with
    | nil => rw [step_noInput hr hp] at h; cases h
    | cons e rest =>
      cases e with
      | reset => rw [step_reset hr hp] at h; cases h; exact .inl ⟨rest, rfl, rfl⟩
      | poll i => rw [step_poll hr hp] at h; exact .inr ⟨i, rest, rfl, h⟩

/-- A poll without a command is the action of the FSM state. -/
theorem pollStep_quiet {i : Input} (s : State) (h : i.cmd = none) : pollStep i s = endStep (fsmStep i s) := by
  simp [pollStep, h]

/-- In IDLE, a poll is the action of the FSM state, with or without a command. -/
theorem pollStep_idle (i : Input) {s : State} (h : s.fsm = .idle) : pollStep i s = endStep (fsmStep i s) := by
  simp [pollStep, State.busy, h]

/-- A command offered while the block is busy is refused (10_state.md R48). -/
theorem pollStep_busy {i : Input} {s : State} (hc : i.cmd.isSome = true) (h : s.fsm ≠ .idle) :
    pollStep i s = .refused .commandWhileBusy := by
  simp [pollStep, hc, (State.busy_iff s).2 h]

theorem pollStep_next {i : Input} {s t : State} (h : pollStep i s = .next t) :
    (i.cmd = none ∨ s.fsm = .idle) ∧ ∃ u, fsmStep i s = .next u ∧ t = u.driveTxen := by
  simp only [pollStep] at h
  split at h
  · cases h
  · rename_i hb
    refine ⟨?_, endStep_eq_next.1 h⟩
    simp only [Bool.and_eq_true, not_and_or, Bool.not_eq_true, State.not_busy_iff] at hb
    rcases hb with hb | hb
    · exact .inl (by simpa using hb)
    · exact .inr hb

/-! ## Acceptance -/

theorem whenConfigured_next {s t : State} {r : Result} :
    whenConfigured s r = .next t ↔ s.cfgValid = true ∧ r = .next t := by
  cases h : s.cfgValid <;> simp [whenConfigured, h]

/-- What the accept step of an exchange can do: raise a status with nothing else changed, or begin the exchange. -/
theorem acceptExchange_next {inv : Option Status} {q : Req} {bs : List Byte} {s t : State} :
    acceptExchange inv q bs s = .next t ↔
      s.cfgValid = true ∧
        ((∃ st, inv = some st ∧ t = s.raise st) ∨ (inv = none ∧ t = s.beginExchange q bs)) := by
  simp only [acceptExchange, whenConfigured_next]
  cases inv with
  | none => simp only [reduceCtorEq, false_and, exists_false, true_and, false_or, Host.Outcome.next.injEq, eq_comm]
  | some st => simp only [Option.some.injEq, exists_eq_left', reduceCtorEq, false_and, or_false,
      Host.Outcome.next.injEq, eq_comm]

/-- An exchange command never faults. -/
theorem acceptExchange_fault {inv : Option Status} {q : Req} {bs : List Byte} {s : State} {f : Fault} :
    acceptExchange inv q bs s ≠ .fault f := by
  simp only [acceptExchange, whenConfigured]
  split
  · split <;> simp
  · simp

/-- An exchange command is refused only for the missing CFG_LINK. -/
theorem acceptExchange_refused {inv : Option Status} {q : Req} {bs : List Byte} {s : State} {x : Refusal} :
    acceptExchange inv q bs s = .refused x ↔ s.cfgValid = false ∧ x = .notConfigured := by
  cases h : s.cfgValid
  · simp [acceptExchange, whenConfigured, h, eq_comm]
  · simp only [acceptExchange, whenConfigured, h, if_true]
    cases inv <;> simp

/-! ### The operand checks -/

theorem isInvalidUnit_false {u : Byte} : isInvalidUnit u = false ↔ u.toNat ≤ 247 := by
  rw [isInvalidUnit, decide_eq_false_iff_not, not_lt]; rfl

theorem isInvalidUnit_true {u : Byte} : isInvalidUnit u = true ↔ 247 < u.toNat := by
  rw [isInvalidUnit, decide_eq_true_eq]; rfl

theorem isBroadcast_true {u : Byte} : isBroadcast u = true ↔ u = 0#8 := by
  simp [isBroadcast]

theorem isBroadcast_false {u : Byte} : isBroadcast u = false ↔ u ≠ 0#8 := by
  simp [isBroadcast]

theorem isInvalidQuantity_false {maxq : Nat} {q : U16} :
    isInvalidQuantity maxq q = false ↔ 1 ≤ q.toNat ∧ q.toNat ≤ maxq := by
  simp only [isInvalidQuantity, Bool.or_eq_false_iff, beq_eq_false_iff_ne, ne_eq, decide_eq_false_iff_not, not_lt]
  constructor
  · rintro ⟨h1, h2⟩
    refine ⟨?_, h2⟩
    by_contra h
    exact h1 (BitVec.eq_of_toNat_eq (by simp; omega))
  · rintro ⟨h1, h2⟩
    refine ⟨?_, h2⟩
    rintro rfl
    simp at h1

theorem isInvalidQuantity_true {maxq : Nat} {q : U16} :
    isInvalidQuantity maxq q = true ↔ q = 0#16 ∨ maxq < q.toNat := by
  simp [isInvalidQuantity]

theorem isInvalidBuffer_false {q cap : U16} : isInvalidBuffer q cap = false ↔ q.toNat ≤ cap.toNat := by
  simp [isInvalidBuffer]

theorem isInvalidBuffer_true {q cap : U16} : isInvalidBuffer q cap = true ↔ cap.toNat < q.toNat := by
  simp [isInvalidBuffer]

/-- The reads the block accepts (44_reads.md R270). -/
theorem validateRead_none {maxq : Nat} {u : Byte} {q cap : U16} :
    validateRead maxq u q cap = none ↔
      u ≠ 0#8 ∧ u.toNat ≤ 247 ∧ 1 ≤ q.toNat ∧ q.toNat ≤ maxq ∧ q.toNat ≤ cap.toNat := by
  simp only [validateRead]
  rw [← isBroadcast_false, ← isInvalidUnit_false, ← and_assoc (a := 1 ≤ q.toNat), ← isInvalidQuantity_false,
    ← isInvalidBuffer_false]
  cases isBroadcast u <;> cases isInvalidUnit u <;> cases isInvalidQuantity maxq q <;>
    cases isInvalidBuffer q cap <;> simp

/-- The single writes the block accepts (45_single_writes.md R300). -/
theorem validateSingle_none {u : Byte} : validateSingle u = none ↔ u.toNat ≤ 247 := by
  rw [← isInvalidUnit_false]
  cases h : isInvalidUnit u <;> simp [validateSingle, h]

/-- The multiple writes the block accepts (46_multiple_writes.md R320). -/
theorem validateMulti_none {maxq : Nat} {u : Byte} {q cap : U16} :
    validateMulti maxq u q cap = none ↔
      u.toNat ≤ 247 ∧ 1 ≤ q.toNat ∧ q.toNat ≤ maxq ∧ q.toNat ≤ cap.toNat := by
  simp only [validateMulti]
  rw [← isInvalidUnit_false, ← and_assoc (a := 1 ≤ q.toNat), ← isInvalidQuantity_false, ← isInvalidBuffer_false]
  cases isInvalidUnit u <;> cases isInvalidQuantity maxq q <;> cases isInvalidBuffer q cap <;> simp

/-- The statuses an operand check raises (60_exceptions.md R361). -/
def Status.IsValidation (st : Status) : Prop :=
  st = .invalidId ∨ st = .invalidQuantity ∨ st = .invalidBuffer

theorem validateRead_some {maxq : Nat} {u : Byte} {q cap : U16} {st : Status}
    (h : validateRead maxq u q cap = some st) : st.IsValidation := by
  simp only [validateRead] at h
  repeat' split at h
  all_goals cases h
  all_goals simp [Status.IsValidation]

theorem validateSingle_some {u : Byte} {st : Status} (h : validateSingle u = some st) : st.IsValidation := by
  simp only [validateSingle] at h
  split at h
  · cases h; exact .inl rfl
  · cases h

theorem validateMulti_some {maxq : Nat} {u : Byte} {q cap : U16} {st : Status}
    (h : validateMulti maxq u q cap = some st) : st.IsValidation := by
  simp only [validateMulti] at h
  repeat' split at h
  all_goals cases h
  all_goals simp [Status.IsValidation]

/-! ### The meanings of the commands -/

/-- A request frame before its CRC: unit, function code and 4 to 251 bytes of data (30_encoding.md R124). -/
def IsRequest (q : Req) (bs : List Byte) : Prop :=
  ∃ unit op data, q.unit = some unit ∧ q.op = some op ∧ bs = unit :: op :: data ∧
    4 ≤ data.length ∧ data.length ≤ 251

/-- What a command can do when it is accepted: every next state of `exec`. -/
inductive ExecCase (i : Instr) (s : State) : State → Prop where
  | cfgLink (b : TimeReg) (p : BitVec 2) (d : Bool) (hi : i = .cfgLink b p d) (hp : p ≠ 3#2) (hb : b ≠ 0#32) :
      ExecCase i s (s.setLink b p d)
  | cfgRespTo (v : TimeReg) (hi : i = .cfgRespTo v) : ExecCase i s (s.setRespTo v)
  | cfgTxen (en : Bool) (hi : i = .cfgTxen en) : ExecCase i s (s.setTxenEn en)
  | clearExc (hi : i = .clearExc) : ExecCase i s s.clearExc
  | invalid (st : Status) (hi : i.op.isExchange = true) (hc : s.cfgValid = true) (hs : st.IsValidation) :
      ExecCase i s (s.raise st)
  | accepted (q : Req) (bs : List Byte) (hi : i.op.isExchange = true) (hc : s.cfgValid = true)
      (hq : q.Latched) (hb : IsRequest q bs) : ExecCase i s (s.beginExchange q bs)

theorem isRequest_head (unit op : Byte) (addr v : U16) (q : Req) (hu : q.unit = some unit) (ho : q.op = some op) :
    IsRequest q (requestHead unit op addr v) :=
  ⟨unit, op, be16 addr ++ be16 v, hu, ho, rfl, by simp, by simp⟩

theorem acceptRead_cases {op : Byte} {maxq : Nat} {unit : Byte} {addr qty cap : U16} {i : Instr} {s t : State}
    (hi : i.op.isExchange = true)
    (hop : (op ∈ [0x01#8, 0x02#8] ∧ maxq = Config.maxReadBits) ∨ (op ∈ [0x03#8, 0x04#8] ∧ maxq = Config.maxReadRegs))
    (h : acceptRead op maxq unit addr qty cap s = .next t) : ExecCase i s t := by
  obtain ⟨hc, ⟨st, hv, rfl⟩ | ⟨hv, rfl⟩⟩ := acceptExchange_next.1 h
  · exact .invalid st hi hc (validateRead_some hv)
  · obtain ⟨h0, hu, hq1, hq2, -⟩ := validateRead_none.1 hv
    refine .accepted _ _ hi hc ?_ (isRequest_head unit op addr qty _ rfl rfl)
    rcases hop with ⟨hm, rfl⟩ | ⟨hm, rfl⟩
    · exact .inl ⟨op, unit, addr, qty, rfl, hm, h0, hu, hq1, hq2⟩
    · exact .inr (.inl ⟨op, unit, addr, qty, rfl, hm, h0, hu, hq1, hq2⟩)

theorem acceptSingle_cases {op unit : Byte} {addr val : U16} {i : Instr} {s t : State}
    (hi : i.op.isExchange = true) (hop : op ∈ [0x05#8, 0x06#8])
    (h : acceptSingle op unit addr val s = .next t) : ExecCase i s t := by
  obtain ⟨hc, ⟨st, hv, rfl⟩ | ⟨hv, rfl⟩⟩ := acceptExchange_next.1 h
  · exact .invalid st hi hc (validateSingle_some hv)
  · refine .accepted _ _ hi hc ?_ (isRequest_head unit op addr val _ rfl rfl)
    exact .inr (.inr (.inl ⟨op, unit, addr, val, rfl, hop, validateSingle_none.1 hv⟩))

/-- Every next state of `exec` is one of the cases above. -/
theorem exec_cases {i : Instr} {s t : State} (h : exec i s = .next t) : ExecCase i s t := by
  cases i with
  | readCoils u a q c => exact acceptRead_cases rfl (.inl ⟨by decide, rfl⟩) h
  | readDi u a q c => exact acceptRead_cases rfl (.inl ⟨by decide, rfl⟩) h
  | readHr u a q c => exact acceptRead_cases rfl (.inr ⟨by decide, rfl⟩) h
  | readIr u a q c => exact acceptRead_cases rfl (.inr ⟨by decide, rfl⟩) h
  | writeCoil u a v => exact acceptSingle_cases rfl (by decide) h
  | writeReg u a v => exact acceptSingle_cases rfl (by decide) h
  | writeCoils u a q c d =>
    simp only [exec, execWriteCoils] at h
    split at h
    · obtain ⟨hc, ⟨st, hv, rfl⟩ | ⟨hv, rfl⟩⟩ := acceptExchange_next.1 h
      · exact .invalid st rfl hc (validateMulti_some hv)
      · obtain ⟨hu, hq1, hq2, -⟩ := validateMulti_none.1 hv
        refine .accepted _ _ rfl hc (.inr (.inr (.inr (.inl ⟨u, a, q, rfl, hu, hq1, hq2⟩)))) ?_
        refine ⟨u, 0x0F#8, be16 a ++ be16 q ++ [BitVec.ofNat 8 (bitByteCount q.toNat)] ++
          packBits (bitByteCount q.toNat) (d.take q.toNat), rfl, rfl, rfl, ?_, ?_⟩
        · simp; omega
        · simp only [List.length_append, be16_length, List.length_singleton, packBits_length, bitByteCount_eq]
          have : q.toNat ≤ 1968 := hq2
          omega
    · cases h
  | writeRegs u a q c d =>
    simp only [exec, execWriteRegs] at h
    split at h
    · obtain ⟨hc, ⟨st, hv, rfl⟩ | ⟨hv, rfl⟩⟩ := acceptExchange_next.1 h
      · exact .invalid st rfl hc (validateMulti_some hv)
      · obtain ⟨hu, hq1, hq2, -⟩ := validateMulti_none.1 hv
        refine .accepted _ _ rfl hc (.inr (.inr (.inr (.inr ⟨u, a, q, rfl, hu, hq1, hq2⟩)))) ?_
        refine ⟨u, 0x10#8, be16 a ++ be16 q ++ [BitVec.ofNat 8 (regByteCount q.toNat)] ++
          (d.take q.toNat).flatMap be16, rfl, rfl, rfl, ?_, ?_⟩
        · simp; omega
        · simp only [List.length_append, be16_length, List.length_singleton, flatMap_be16_length, List.length_take]
          have : q.toNat ≤ 123 := hq2
          omega
    · cases h
  | cfgLink b p d =>
    simp only [exec, execCfgLink] at h
    by_cases hp : parityReserved p = true
    · rw [if_pos hp] at h; cases h
    · by_cases hb : b = 0#32
      · rw [if_neg hp, if_pos hb] at h; cases h
      · rw [if_neg hp, if_neg hb] at h; cases h
        exact .cfgLink b p d rfl (by simpa [parityReserved] using hp) hb
  | cfgRespTo v => cases h; exact .cfgRespTo v rfl
  | cfgTxen en => cases h; exact .cfgTxen en rfl
  | clearExc => cases h; exact .clearExc rfl

/-- No command faults. -/
theorem exec_not_fault (i : Instr) (s : State) (f : Fault) : exec i s ≠ .fault f := by
  cases i with
  | readCoils u a q c => exact acceptExchange_fault
  | readDi u a q c => exact acceptExchange_fault
  | readHr u a q c => exact acceptExchange_fault
  | readIr u a q c => exact acceptExchange_fault
  | writeCoil u a v => exact acceptExchange_fault
  | writeReg u a v => exact acceptExchange_fault
  | writeCoils u a q c d =>
    simp only [exec, execWriteCoils]
    split
    · exact acceptExchange_fault
    · simp
  | writeRegs u a q c d =>
    simp only [exec, execWriteRegs]
    split
    · exact acceptExchange_fault
    · simp
  | cfgLink b p d =>
    simp only [exec, execCfgLink]
    repeat' split
    all_goals simp
  | cfgRespTo v => simp [exec, execCfgRespTo]
  | cfgTxen en => simp [exec, execCfgTxen]
  | clearExc => simp [exec, execClearExc]

/-! ## The end of a frame -/

/-- A frame with the CRC of what it holds passes the deframer (43_receive.md R238). -/
theorem deframe_withCrc (u f : Byte) (data : List Byte) :
    deframe (withCrc (u :: f :: data)) = .ok { unit := u, fc := f, data := data } := by
  have hn : (withCrc (u :: f :: data)).length - 2 = (u :: f :: data).length := by simp
  have ht : (withCrc (u :: f :: data)).take (u :: f :: data).length = u :: f :: data := by simp [withCrc]
  have hd : (withCrc (u :: f :: data)).drop (u :: f :: data).length = crcBytes (crc16 (u :: f :: data)) := by
    simp [withCrc]
  have hl : ¬ (withCrc (u :: f :: data)).length < 4 := by simp
  simp only [deframe, hl, if_false, hn, ht, hd, ne_eq, not_true_eq_false]

/-- What a frame that passes the deframer is: its ADU with the CRC of that ADU. -/
theorem deframe_ok {bs : List Byte} {adu : Adu} (h : deframe bs = .ok adu) :
    bs = withCrc (adu.unit :: adu.fc :: adu.data) := by
  simp only [deframe] at h
  split at h
  · cases h
  · split at h
    · cases h
    · rename_i hl hc
      split at h
      · rename_i u f data hb
        cases h
        have : bs = bs.take (bs.length - 2) ++ bs.drop (bs.length - 2) := by simp
        rw [this]
        simp only [ne_eq, not_not] at hc
        rw [hc, hb]
        rfl
      · cases h

/-- Every way a response frame ends a command (43_receive.md R237): a status other than UNKNOWN_COMM_ERROR, with the
exception code captured, the read data stored, or nothing else written. -/
inductive FrameEnd (s : State) : State → Prop where
  | plain (st : Status) (h : st ≠ .unknownCommError) : FrameEnd s (s.raise st)
  | exception (code : Byte) : FrameEnd s ((s.captureExc code).raise .exceptionResponse)
  | bits (n : Nat) (bs : List Byte) (h : n ≤ Config.outBitsN) (ho : s.req.op = some 0x01#8 ∨ s.req.op = some 0x02#8) :
      FrameEnd s ((s.unpackBits n bs).raise .success)
  | regs (n : Nat) (bs : List Byte) (h : n ≤ Config.outRegsN) (ho : s.req.op = some 0x03#8 ∨ s.req.op = some 0x04#8) :
      FrameEnd s ((s.unpackRegs n bs).raise .success)

/-- What the decoder of a read response can do (44_reads.md R274). -/
theorem decodeRead_next {bc : Nat → Nat} {capn : Nat} {unpack : Nat → List Byte → State → State} {adu : Adu}
    {s t : State} (h : decodeRead bc capn unpack adu s = .next t) :
    (∃ st, st ≠ .unknownCommError ∧ t = s.raise st) ∨
      (∃ q bs, q ≤ capn ∧ t = (unpack q bs s).raise .success) := by
  obtain ⟨q, hq, h⟩ := need_next.1 h
  simp only at h
  split at h
  · cases h; exact .inl ⟨_, by decide, rfl⟩
  · rename_i d bs hd
    split at h
    · cases h; exact .inl ⟨_, by decide, rfl⟩
    · split at h
      · cases h; exact .inl ⟨_, by decide, rfl⟩
      · split at h
        · cases h
        · cases h; exact .inr ⟨_, bs, by omega, rfl⟩

theorem decodeSingle_next {adu : Adu} {s t : State} (h : decodeSingle adu s = .next t) :
    ∃ st, st ≠ .unknownCommError ∧ t = s.raise st := by
  simp only [decodeSingle] at h
  split at h
  · obtain ⟨a, -, h⟩ := need_next.1 h
    split at h
    · cases h; exact ⟨_, by decide, rfl⟩
    · obtain ⟨v, -, h⟩ := need_next.1 h
      split at h <;> cases h <;> exact ⟨_, by decide, rfl⟩
  · cases h; exact ⟨_, by decide, rfl⟩

theorem decodeMulti_next {adu : Adu} {s t : State} (h : decodeMulti adu s = .next t) :
    ∃ st, st ≠ .unknownCommError ∧ t = s.raise st := by
  simp only [decodeMulti] at h
  split at h
  · obtain ⟨a, -, h⟩ := need_next.1 h
    split at h
    · cases h; exact ⟨_, by decide, rfl⟩
    · obtain ⟨q, -, h⟩ := need_next.1 h
      split at h <;> cases h <;> exact ⟨_, by decide, rfl⟩
  · cases h; exact ⟨_, by decide, rfl⟩

theorem decodeResponse_cases {op : Byte} {adu : Adu} {s t : State} (ho : s.req.op = some op)
    (h : decodeResponse op adu s = .next t) : FrameEnd s t := by
  have plain : (∃ st, st ≠ .unknownCommError ∧ t = s.raise st) → FrameEnd s t := by
    rintro ⟨st, hst, rfl⟩; exact .plain st hst
  simp only [decodeResponse] at h
  split at h
  · rename_i hop
    have hb := Op.byte_of_ofByte? hop; subst hb
    rcases decodeRead_next h with hp | ⟨q, bs, hq, rfl⟩
    · exact plain hp
    · exact .bits q bs hq (.inl ho)
  · rename_i hop
    have hb := Op.byte_of_ofByte? hop; subst hb
    rcases decodeRead_next h with hp | ⟨q, bs, hq, rfl⟩
    · exact plain hp
    · exact .bits q bs hq (.inr ho)
  · rename_i hop
    have hb := Op.byte_of_ofByte? hop; subst hb
    rcases decodeRead_next h with hp | ⟨q, bs, hq, rfl⟩
    · exact plain hp
    · exact .regs q bs hq (.inl ho)
  · rename_i hop
    have hb := Op.byte_of_ofByte? hop; subst hb
    rcases decodeRead_next h with hp | ⟨q, bs, hq, rfl⟩
    · exact plain hp
    · exact .regs q bs hq (.inr ho)
  · exact plain (decodeSingle_next h)
  · exact plain (decodeSingle_next h)
  · exact plain (decodeMulti_next h)
  · exact plain (decodeMulti_next h)
  all_goals cases h

theorem checkResponse_cases {adu : Adu} {s t : State} (h : checkResponse adu s = .next t) : FrameEnd s t := by
  obtain ⟨u, -, h⟩ := need_next.1 h
  split at h
  · cases h; exact .plain _ (by decide)
  · obtain ⟨op, ho, h⟩ := need_next.1 h
    split at h
    · split at h
      · cases h; exact .plain _ (by decide)
      · cases h; exact .exception _
    · split at h
      · cases h; exact .plain _ (by decide)
      · exact decodeResponse_cases ho h

theorem deframe_error {bs : List Byte} {e : CommError} (h : deframe bs = .error e) :
    e = .frameError ∨ e = .crcError := by
  simp only [deframe] at h
  repeat' split at h
  all_goals first | (cases h; simp) | cases h

/-- The end of a frame whose bytes all hold a value is the deframer, then the response checks (43_receive.md R237). -/
theorem endOfFrame_eq {bs : List Byte} {s : State} (h : s.frameBytes = some bs) :
    endOfFrame s = match deframe bs with
      | .error e => .next (s.commFail e)
      | .ok adu => checkResponse adu s := by
  have hl : bs.length = s.len := (Cells.load_eq_some.1 h).1
  by_cases h4 : s.len < 4
  · simp [endOfFrame, deframe, hl, h4]
  · cases hd : deframe bs <;> simp [endOfFrame, h4, h, hd]

/-- Everything the end of a frame can do. -/
theorem endOfFrame_cases {s t : State} (h : endOfFrame s = .next t) : FrameEnd s t := by
  simp only [endOfFrame] at h
  split at h
  · cases h; exact .plain _ (by decide)
  obtain ⟨bs, -, h⟩ := need_next.1 h
  split at h
  · rename_i e he
    cases h
    rcases deframe_error he with rfl | rfl
    · exact .plain _ (by decide)
    · exact .plain _ (by decide)
  · exact checkResponse_cases h

/-! ## The receive states -/

/-- What a consumed byte can do (43_receive.md R234). -/
theorem takeByte_next {b : Byte} {now : Time} {s t : State} :
    takeByte b now s = .next t ↔
      (s.len = Config.frameCap ∧ t = s.takeRx.raise .frameError) ∨
      (s.len < Config.frameCap ∧ t = s.takeRx.storeRx b now) := by
  simp only [takeByte]
  split
  · rename_i h; simp [h, CommError.status, eq_comm]
  · split
    · rename_i h1 h2; simp; omega
    · rename_i h1 h2
      have : s.len < Config.frameCap := by omega
      simp [h1, this, eq_comm]

/-- Every next state of a poll, before TXEN is driven. -/
inductive PollCase (i : Input) (s : State) : State → Prop where
  | quietIdle (hf : s.fsm = .idle) (hc : i.cmd = none) : PollCase i s s
  | command (c : Command) (ins : Instr) (t : State) (hf : s.fsm = .idle) (hc : i.cmd = some c)
      (hd : decode c = .ok ins) (he : ExecCase ins s t) : PollCase i s t
  | sent (bs : List Byte) (hf : s.fsm = .txWrite) (hb : s.frameBytes = some bs) : PollCase i s (s.sendFrame bs)
  | flushing (hf : s.fsm = .txFlush) (hd : i.txDone = false) : PollCase i s s
  | broadcast (hf : s.fsm = .txFlush) (hd : i.txDone = true) (hu : s.req.unit = some 0#8) :
      PollCase i s (s.releaseTxen.raise .success)
  | flushed (u : Byte) (hf : s.fsm = .txFlush) (hd : i.txDone = true) (hu : s.req.unit = some u) (h0 : u ≠ 0#8) :
      PollCase i s (s.releaseTxen.startAwait i.now)
  | overrun (b : Byte) (hf : s.fsm.receiving) (hr : i.rx = some b) (hl : s.len = Config.frameCap) :
      PollCase i s (s.takeRx.raise .frameError)
  | byte (b : Byte) (hf : s.fsm.receiving) (hr : i.rx = some b) (hl : s.len < Config.frameCap) :
      PollCase i s (s.takeRx.storeRx b i.now)
  | responseTimeout (hf : s.fsm = .await) (hr : i.rx = none) : PollCase i s (s.raise .responseTimeout)
  | waiting (hf : s.fsm.receiving) (hr : i.rx = none) : PollCase i s s
  | charGap (hf : s.fsm = .accum) (hr : i.rx = none) : PollCase i s s.toConfirm
  | lateByte (hf : s.fsm = .confirm) (hr : i.rx ≠ none) : PollCase i s (s.raise .frameError)
  | frameEnd (t : State) (hf : s.fsm = .confirm) (hr : i.rx = none) (he : FrameEnd s t) : PollCase i s t

theorem takeByte_cases {i : Input} {b : Byte} {s t : State} (hf : s.fsm.receiving) (hr : i.rx = some b)
    (h : takeByte b i.now s = .next t) : PollCase i s t := by
  rcases takeByte_next.1 h with ⟨hl, rfl⟩ | ⟨hl, rfl⟩
  · exact .overrun b hf hr hl
  · exact .byte b hf hr hl

/-- Every next state of the FSM's action is one of the cases above. -/
theorem fsmStep_cases {i : Input} {s t : State} (h : fsmStep i s = .next t) : PollCase i s t := by
  simp only [fsmStep] at h
  split at h
  · rename_i hf
    split at h
    · rename_i c hc
      simp only [accept] at h
      split at h
      · cases h
      · rename_i ins hd; exact .command c ins t hf hc hd (exec_cases h)
    · rename_i hc; cases h; exact .quietIdle hf hc
  · rename_i hf
    obtain ⟨bs, hb, h⟩ := need_next.1 h
    cases h; exact .sent bs hf hb
  · rename_i hf
    simp only [txFlushStep] at h
    split at h
    · rename_i hd
      obtain ⟨u, hu, h⟩ := need_next.1 h
      split at h
      · rename_i h0; rw [isBroadcast_true] at h0; subst h0; cases h; exact .broadcast hf hd hu
      · rename_i h0; cases h; exact .flushed u hf hd hu (by simpa [isBroadcast] using h0)
    · rename_i hd; cases h; exact .flushing hf (by simpa using hd)
  · rename_i hf
    simp only [awaitStep] at h
    split at h
    · rename_i b hr; exact takeByte_cases (.inl hf) hr h
    · rename_i hr
      obtain ⟨t0, -, h⟩ := need_next.1 h
      split at h
      · cases h; exact .responseTimeout hf hr
      · cases h; exact .waiting (.inl hf) hr
  · rename_i hf
    simp only [accumStep] at h
    split at h
    · rename_i b hr; exact takeByte_cases (.inr (.inl hf)) hr h
    · rename_i hr
      obtain ⟨t0, -, h⟩ := need_next.1 h
      obtain ⟨ct, -, h⟩ := need_next.1 h
      split at h
      · cases h; exact .charGap hf hr
      · cases h; exact .waiting (.inr (.inl hf)) hr
  · rename_i hf
    have h : confirmAppendStep i s = .next t := h
    obtain ⟨t0, -, h⟩ := need_next.1 h
    obtain ⟨ft, -, h⟩ := need_next.1 h
    split at h
    · split at h
      · rename_i b hr; cases h; exact .lateByte hf (by simp [hr])
      · rename_i hr; exact .frameEnd t hf hr (endOfFrame_cases h)
    · split at h
      · rename_i b hr; exact takeByte_cases (.inr (.inr hf)) hr h
      · rename_i hr; cases h; exact .waiting (.inr (.inr hf)) hr

/-- Everything a step that takes a poll can do. -/
theorem poll_cases {s t : State} {i : Input} {rest : List Event} (hr : s.refused = false)
    (hp : s.pending = .poll i :: rest) (h : step s = .next t) :
    (i.cmd = none ∨ s.fsm = .idle) ∧ ∃ u, PollCase i (s.begin rest) u ∧ t = u.driveTxen := by
  rw [step_poll hr hp] at h
  obtain ⟨hc, u, hu, rfl⟩ := pollStep_next h
  exact ⟨hc, u, fsmStep_cases hu, rfl⟩

end Sys2Proof.Machine
end

