-- ==== Sys2Proof/Laws/Duties.lean ====
section
/-! SUPPORT. What the duties of the transport (60_exceptions.md R380) give: they can all be kept together, and under them
the block waits for ever neither for the flush nor for the first byte. -/

namespace Sys2Proof.Machine

/-! ## The steps of an unending run -/

variable {s : Nat → State} {tr : Nat → Transport} {time : Nat → Nat} {inp : Nat → Input}

/-- A poll offered to a state, and everything it can do. -/
theorem offeredPoll_cases {s t : State} {i : Input} (h : step (s.offeredPoll i) = .next t) :
    ∃ u, PollCase i ((s.offeredPoll i).begin []) u ∧ t = u.driveTxen :=
  (poll_cases (s := s.offeredPoll i) (step_next_cases h).1 rfl h).2

/-- True time never runs back. -/
theorem DutiesKept.time_mono (h : DutiesKept s tr time inp) {j k : Nat} (hjk : j ≤ k) : time j ≤ time k := by
  induction hjk with
  | refl => exact Nat.le_refl _
  | step _ ih => exact Nat.le_trans ih (h.timed _).2.1

/-- A step that sees the flush in TX_FLUSH leaves TX_FLUSH (42_framer.md R205). -/
theorem leaves_txFlush {s t : State} {i : Input} (h : step (s.offeredPoll i) = .next t) (hf : s.fsm = .txFlush)
    (hd : i.txDone = true) : t.fsm ≠ .txFlush := by
  rw [step_poll (rest := []) (step_next_cases h).1 rfl] at h
  obtain ⟨-, u, hu, rfl⟩ := pollStep_next h
  have hu : txFlushStep i ((s.offeredPoll i).begin []) = .next u := by
    simpa only [fsmStep, State.begin_fsm, State.offeredPoll, hf] using hu
  simp only [txFlushStep, hd, if_true] at hu
  obtain ⟨unit, -, hu⟩ := need_next.1 hu
  split at hu <;> cases hu <;> rintro ⟨⟩

/-- A step from AWAIT leaves it, or the response timeout has not been reached and the wait goes on unchanged
(43_receive.md R232). -/
theorem await_goes_on {s t : State} {i : Input} {t0 : TimeReg} (h : step (s.offeredPoll i) = .next t)
    (hf : s.fsm = .await) (h0 : s.tStart = some t0) (ht : t.fsm = .await) :
    t.tStart = some t0 ∧ t.respTo = s.respTo ∧ respExpired i.now t0 s.respTo = false := by
  have hr := (step_next_cases h).1
  rw [step_poll (rest := []) hr rfl] at h
  obtain ⟨-, u, hu, rfl⟩ := pollStep_next h
  have hu : awaitStep i ((s.offeredPoll i).begin []) = .next u := by
    simpa only [fsmStep, State.begin_fsm, State.offeredPoll, hf] using hu
  simp only [awaitStep] at hu
  split at hu
  · rcases takeByte_next.1 hu with ⟨-, rfl⟩ | ⟨-, rfl⟩ <;> cases ht
  · obtain ⟨t1, h1, hu⟩ := need_next.1 hu
    obtain rfl : t1 = t0 := Option.some.inj (h1.symm.trans h0)
    split at hu
    · cases hu; cases ht
    · rename_i hx; cases hu; exact ⟨h0, rfl, Bool.eq_false_iff.2 hx⟩

/-- Under the duties the wait for the flush ends: after every TxWrite some later state is not TX_FLUSH (42_framer.md
R205, 60_exceptions.md R380). -/
theorem DutiesKept.flush_ends (h : DutiesKept s tr time inp) {k : Nat}
    (hw : (s (k + 1)).out.txWrite.isSome = true) : ∃ m, k < m ∧ (s m).fsm ≠ .txFlush := by
  obtain ⟨m, hm, hd⟩ := h.flushReported k hw
  by_cases hf : (s m).fsm = .txFlush
  · exact ⟨m + 1, by omega, leaves_txFlush (h.runs m) hf hd⟩
  · exact ⟨m, hm, hf⟩

/-- Under the duties the wait for the first byte ends: a block that has come to AWAIT leaves it, by a byte or by the
response timeout (43_receive.md R232, 60_exceptions.md R380). -/
theorem DutiesKept.await_ends (h : DutiesKept s tr time inp) {k : Nat}
    (hf : (s k).fsm = .txFlush) (ha : (s (k + 1)).fsm = .await) : ∃ m, k < m ∧ (s m).fsm ≠ .await := by
  by_contra hn
  simp only [not_exists, not_and, not_not] at hn
  have start : (s (k + 1)).tStart = some (nowAt (time k)) ∧ (s (k + 1)).respTo = (s k).respTo := by
    obtain ⟨u, hu, e⟩ := offeredPoll_cases (h.runs k)
    rw [e] at ha ⊢
    have hf' : ((s k).offeredPoll (inp k)).fsm = .txFlush := hf
    cases hu with
    | flushed u => exact ⟨congrArg some (h.timed k).1, rfl⟩
    | quietIdle hf2 => cases hf2.symm.trans hf'
    | command _ _ _ hf2 => cases hf2.symm.trans hf'
    | sent _ hf2 => cases hf2.symm.trans hf'
    | flushing hf2 => cases hf2.symm.trans ha
    | broadcast => cases ha
    | overrun => cases ha
    | byte => cases ha
    | responseTimeout => cases ha
    | waiting hf2 => rcases hf2 with hf2 | hf2 | hf2 <;> cases hf2.symm.trans hf'
    | charGap => cases ha
    | lateByte => cases ha
    | frameEnd _ hf2 => cases hf2.symm.trans hf'
  have stay : ∀ n, (s (k + 1 + n)).tStart = some (nowAt (time k)) ∧ (s (k + 1 + n)).respTo = (s k).respTo := by
    intro n
    induction n with
    | zero => exact start
    | succ n ih =>
      have g := await_goes_on (h.runs (k + 1 + n)) (hn _ (by omega)) ih.1 (hn _ (by omega))
      exact ⟨g.1, g.2.1.trans ih.2⟩
  have late : ∀ m, k < m → time m - time k < 2 ^ Config.timeW → time m - time k < (s k).respTo.toNat := by
    intro m hm hw
    obtain ⟨n, rfl⟩ : ∃ n, m = k + 1 + n := ⟨m - (k + 1), by omega⟩
    have g := (await_goes_on (h.runs (k + 1 + n)) (hn _ (by omega)) (stay n).1 (hn _ (by omega))).2.2
    have hle := h.time_mono (show k ≤ k + 1 + n by omega)
    rw [(h.timed _).1, (stay n).2, respExpired_eq, decide_eq_false_iff_not, elapsed, nowAt, nowAt, BitVec.toNat_sub,
      BitVec.toNat_ofNat, BitVec.toNat_ofNat] at g
    simp only [Config.timeW_eq] at g hw
    omega
  obtain ⟨m, hm, hd, hw⟩ := h.fair k _ (List.mem_cons_self ..)
  rcases Nat.eq_or_lt_of_le hm with rfl | hm
  · have := late (k + 1) (by omega) (h.timed k).2.2
    omega
  · have := late m hm hw
    omega

/-! ## The duties can be kept -/

/-- Every duty is kept together by a quiet transport polled once a microsecond. -/
theorem dutiesKept_quiet :
    DutiesKept (fun _ => State.reset) (fun _ => ⟨[], false, false, [], false⟩) (fun k => k)
      (fun k => { now := nowAt k, rx := none, txDone := false, cmd := none }) where
  runs _ := rfl
  presents _ := ⟨.inl rfl, by simp, by simp⟩
  goesOn _ := ⟨[], 0, rfl⟩
  flushReported _ h := by cases h
  timed k := ⟨rfl, by omega, by simp only [Config.timeW_eq]; omega⟩
  fair k d hd := by
    obtain rfl : d = 100000 := List.mem_singleton.1 hd
    exact ⟨k + 100000, by omega, by omega, by simp only [Config.timeW_eq]; omega⟩

end Sys2Proof.Machine
end

