-- ==== Sys2Proof/Laws/PerInstr.lean ====
section
/-! SUPPORT. Facts about every instruction as syntax, one lemma per constructor. The family OpField: the operation field
of the encoded word is the byte of 30_encoding.md R111. -/

namespace Sys2Proof.Laws.OpField

/-- W[7:0] of the encoded instruction is its OP value. -/
def Statement (i : Instr) : Prop := opField (encodeWord i) = i.op.byte

/-- The low byte of a word put together with the operation byte last. -/
theorem low_byte {n : Nat} (x : BitVec n) (b : Byte) : (x ++ b).extractLsb' 0 8 = b := by
  ext k hk
  simp [BitVec.getLsbD_append, hk]

theorem readCoils (unit : Byte) (addr qty cap : U16) : Statement (.readCoils unit addr qty cap) := low_byte _ _

theorem readDi (unit : Byte) (addr qty cap : U16) : Statement (.readDi unit addr qty cap) := low_byte _ _

theorem readHr (unit : Byte) (addr qty cap : U16) : Statement (.readHr unit addr qty cap) := low_byte _ _

theorem readIr (unit : Byte) (addr qty cap : U16) : Statement (.readIr unit addr qty cap) := low_byte _ _

theorem writeCoil (unit : Byte) (addr : U16) (coil : Bool) : Statement (.writeCoil unit addr coil) := low_byte _ _

theorem writeReg (unit : Byte) (addr value : U16) : Statement (.writeReg unit addr value) := low_byte _ _

theorem writeCoils (unit : Byte) (addr qty cap : U16) (data : List Bool) :
    Statement (.writeCoils unit addr qty cap data) := low_byte _ _

theorem writeRegs (unit : Byte) (addr qty cap : U16) (data : List U16) :
    Statement (.writeRegs unit addr qty cap data) := low_byte _ _

theorem cfgLink (baud : TimeReg) (parity : BitVec 2) (stop2 : Bool) : Statement (.cfgLink baud parity stop2) :=
  low_byte _ _

theorem cfgRespTo (resp : TimeReg) : Statement (.cfgRespTo resp) := low_byte _ _

theorem cfgTxen (en : Bool) : Statement (.cfgTxen en) := low_byte _ _

theorem clearExc : Statement .clearExc := low_byte _ _

end Sys2Proof.Laws.OpField
end

