-- ==== Sys2Proof/Tests/Slice0.lean ====
section
/-! SUPPORT. The model's own tests. Expected values come from spec/95_test_vectors.md (its section is named), from the
spec's tables, or from hand calculation with the rule named. The witnesses at the end show that the hypotheses of each
statement can be met together. -/

namespace Sys2Proof.Tests

open Sys2Proof Sys2Proof.Machine

set_option Elab.async false

/-! ## Helpers -/

/-- The state after reset and `CFG_LINK 9600, N, 1` (§3: BPC 10, CHAR_TO 2604, FRAME_TO 4687). -/
def linked : State :=
  { State.reset with
    cfgValid := true, baud := some 9600#32, parity := some 0#2, stop2 := some false, bpc := some 10#8,
    charTo := some 2604#32, frameTo := some 4687#32 }

/-- A poll with a command word and WDATA. -/
def cmdPoll (w : Word) (wd : WData) : Input := { now := 0#32, rx := none, txDone := false, cmd := some ⟨w, wd⟩ }

/-- A poll at a time with nothing offered. -/
def quiet (now : Time) : Input := { now := now, rx := none, txDone := false, cmd := none }

/-- A poll that offers a byte. -/
def rxPoll (now : Time) (b : Byte) : Input := { now := now, rx := some b, txDone := false, cmd := none }

/-- A poll that reports the flush. -/
def flushPoll (now : Time) : Input := { now := now, rx := none, txDone := true, cmd := none }

/-- The configured idle block with events to come. -/
def idleWith (es : List Event) : State := { linked with pending := es }

/-- A block in an exchange: the FSM state, the request latch, the bytes in BUF, and the events to come. T_START is 1000
and T_LAST 2000. -/
def busyWith (f : Fsm) (q : Req) (bs : List Byte) (es : List Event) : State :=
  { linked with
    fsm := f, req := q, buf := Cells.store 0 bs [], len := bs.length
    tStart := some 1000#32, tLast := some 2000#32, pending := es }

/-- The block in CONFIRM with a frame received, and one poll to come at T_LAST + FRAME_TO. -/
def frameIn (q : Req) (bs : List Byte) : State := busyWith .confirm q bs [.poll (quiet 6687#32)]

/-- `READ_HR 17, 0, 4` latched (§5.1). -/
def hrReq : Req := readReq 0x03#8 17#8 0#16 4#16

/-- `WRITE_COIL 3, 5, ON` latched (§5.2). -/
def coilReq : Req := singleReq 0x05#8 3#8 5#16 0xFF00#16

/-- `WRITE_COILS 1, 0x13, 10` latched (§5.3). -/
def coilsReq : Req := multiReq 0x0F#8 1#8 0x13#16 10#16

/-- The next state of an answer. -/
def nextOf (r : Host.Outcome State Fault Refusal) : Option State :=
  match r with
  | .next t => some t
  | _ => none

/-- What a run saw of a step: STATUS, EXC and O.done, or nothing where it did not answer next. -/
def ending (r : Host.Outcome State Fault Refusal) : Option (Option Status × Option Byte × Bool) :=
  match r with
  | .next t => some (t.status, t.exc, t.out.done)
  | _ => none

/-- The frame a step left in BUF[0 .. LEN). -/
def framed (r : Host.Outcome State Fault Refusal) : Option (List Byte) :=
  match r with
  | .next t => t.frameBytes
  | _ => none

/-- The fault of an answer. -/
def faultOf (r : Host.Outcome State Fault Refusal) : Option Fault :=
  match r with
  | .fault f => some f
  | _ => none

/-- The first `n` elements of OUT_REGS after a step. -/
def regsAfter (n : Nat) (r : Host.Outcome State Fault Refusal) : Option (List U16) :=
  match r with
  | .next t => Cells.load 0 n t.outRegs
  | _ => none

/-- The first `n` elements of OUT_BITS after a step. -/
def bitsAfter (n : Nat) (r : Host.Outcome State Fault Refusal) : Option (List Bool) :=
  match r with
  | .next t => Cells.load 0 n t.outBits
  | _ => none

/-- The FSM and the output record after a step. -/
def moved (r : Host.Outcome State Fault Refusal) : Option (Fsm × Output) :=
  match r with
  | .next t => some (t.fsm, t.out)
  | _ => none

/-- The refusal a step answered. -/
def refusal (r : Host.Outcome State Fault Refusal) : Option Refusal :=
  match r with
  | .refused x => some x
  | _ => none

/-! ## WellFormed: an ill-formed term for each check, refused by it and by the meaning -/

theorem test_illFormed_writeCoils : wellFormed (.writeCoils 1#8 0x13#16 10#16 10#16 [true]) = false := by decide

theorem test_illFormed_writeRegs : wellFormed (.writeRegs 1#8 1#16 2#16 2#16 [1#16, 2#16, 3#16]) = false := by decide

theorem test_illFormed_cfgLink : wellFormed (.cfgLink 9600#32 3#2 false) = false := by decide

theorem test_wellFormed_boundaries :
    wellFormed (.writeCoils 1#8 0x13#16 10#16 0#16 []) = true ∧ wellFormed (.cfgLink 0#32 2#2 true) = true := by decide

/-! ## Decode: words written out from the formats (§4), and the refused words of §7 -/

theorem test_decode_readCoils :
    decode ⟨0x0025002500130101#64, .none⟩ = .ok (.readCoils 1#8 0x13#16 37#16 37#16) := by decide

theorem test_decode_readDi : decode ⟨0x000A000A00000202#64, .none⟩ = .ok (.readDi 2#8 0#16 10#16 10#16) := by decide

theorem test_decode_readHr : decode ⟨0x0003000400001103#64, .none⟩ = .ok (.readHr 17#8 0#16 4#16 3#16) := by decide

theorem test_decode_readIr : decode ⟨0x0001000100080104#64, .none⟩ = .ok (.readIr 1#8 8#16 1#16 1#16) := by decide

theorem test_decode_writeCoil : decode ⟨0x0000000100050305#64, .none⟩ = .ok (.writeCoil 3#8 5#16 true) := by decide

theorem test_decode_writeReg : decode ⟨0x0000000300010106#64, .none⟩ = .ok (.writeReg 1#8 1#16 3#16) := by decide

theorem test_decode_writeCoils :
    decode ⟨0x000A000A0013010F#64, .bits [true, false, true, true, false, false, true, true, true, false]⟩ =
      .ok (.writeCoils 1#8 0x13#16 10#16 10#16
        [true, false, true, true, false, false, true, true, true, false]) := by decide

theorem test_decode_writeRegs :
    decode ⟨0x0002000200010110#64, .regs [0x000A#16, 0x0102#16]⟩ =
      .ok (.writeRegs 1#8 1#16 2#16 2#16 [0x000A#16, 0x0102#16]) := by decide

theorem test_decode_cfgLink : decode ⟨0x00000100004B0040#64, .none⟩ = .ok (.cfgLink 19200#32 1#2 false) := by decide

/-- Bit 42 is STOP2 (30_encoding.md R116): `CFG_LINK 19200, E, 2`. -/
theorem test_decode_cfgLink_stop2 :
    decode ⟨0x00000500004B0040#64, .none⟩ = .ok (.cfgLink 19200#32 1#2 true) := by decide

theorem test_decode_cfgRespTo : decode ⟨0x0000000000C35041#64, .none⟩ = .ok (.cfgRespTo 50000#32) := by decide

theorem test_decode_cfgTxen : decode ⟨0x0000000000000142#64, .none⟩ = .ok (.cfgTxen true) := by decide

theorem test_decode_clearExc : decode ⟨0x0000000000000043#64, .none⟩ = .ok .clearExc := by decide

theorem test_decode_refused :
    decode ⟨0x0000000000000007#64, .none⟩ = .error .illegalOp ∧
    decode ⟨0x8000000300010106#64, .none⟩ = .error .reservedBits ∧
    decode ⟨0x0000000300010105#64, .none⟩ = .error .reservedBits ∧
    decode ⟨0x0000030000258040#64, .none⟩ = .error .parityReserved ∧
    decode ⟨0x0004000400001103#64, .regs [1#16, 2#16, 3#16, 4#16]⟩ = .error .wdataMismatch ∧
    decode ⟨0x000A000A0013010F#64, .bits [true]⟩ = .error .wdataMismatch := by decide

/-- The first failing check decides (30_encoding.md R120): an unassigned OP before reserved bits, reserved bits before
WDATA, WDATA before PARITY. -/
theorem test_decode_order :
    decode ⟨0xFFFFFFFFFFFFFF07#64, .bits []⟩ = .error .illegalOp ∧
    decode ⟨0x8000000300010106#64, .bits []⟩ = .error .reservedBits ∧
    decode ⟨0x0000030000258040#64, .bits []⟩ = .error .wdataMismatch := by decide

/-- No operation byte stands for two operations. -/
theorem test_opBytes_distinct : (Op.all.map Op.byte).Nodup := by decide

/-- Opcode-table words, with WDATA of zeros for the multiple writes. -/
theorem test_tableWords :
    decodeTableWord 64 0x0000000000000001 = some (.readCoils 0#8 0#16 0#16 0#16) ∧
    decodeTableWord 64 0x000200020001010F = some (.writeCoils 1#8 1#16 2#16 2#16 [false, false]) ∧
    decodeTableWord 64 0x0001000200010110 = some (.writeRegs 1#8 1#16 2#16 1#16 [0#16]) ∧
    decodeTableWord 8 0xFFFFFFFFFFFFFF43 = some .clearExc ∧
    decodeTableWord 64 0x0000000000000007 = none := by decide

/-- The very next step after `withFetchWord` runs the command of the table word. -/
theorem test_withFetchWord :
    nextOf (step (State.reset.withFetchWord 64 0x0000000000000541)) =
      some { State.reset with respTo := 5#32 } := by decide +kernel

/-! ## The assembler (30_encoding.md R136, R137; §4) -/

theorem test_assemble_readHr_cap :
    assembleLine "READ_HR 17, 0, 4, 3 ; cap 3".toList = .command ⟨0x0003000400001103#64, .none⟩ := by decide +kernel

theorem test_assemble_readCoils :
    assembleLine "READ_COILS 1, 0x13, 37".toList = .command ⟨0x0025002500130101#64, .none⟩ := by decide +kernel

theorem test_assemble_cfgLink :
    assembleLine "CFG_LINK 19200, E, 1".toList = .command ⟨0x00000100004B0040#64, .none⟩ ∧
    assembleLine "CFG_LINK 19200, 8E1".toList = .command ⟨0x00000100004B0040#64, .none⟩ := by decide +kernel

theorem test_assemble_coilOff :
    assembleLine "COIL_OFF 0, 7".toList = .command ⟨0x0000000000070005#64, .none⟩ := by decide +kernel

/-- `WRITE_REGS 1, 1, 2, ` and a listed sequence, the braces being characters 123 and 125. -/
theorem test_assemble_writeRegs :
    assembleLine ("WRITE_REGS 1, 1, 2, ".toList ++ [Char.ofNat 123] ++ "0x000A, 0x0102".toList ++ [Char.ofNat 125]) =
      .command ⟨0x0002000200010110#64, .regs [0x000A#16, 0x0102#16]⟩ := by decide +kernel

/-- A number that does not fit its field is an assembly error, and a line of a comment is no line. -/
theorem test_assemble_errors :
    assembleLine "READ_HR 256, 0, 4".toList = .error ∧ assembleLine "; nothing".toList = .empty := by decide +kernel

/-! ## The CRC engine and the timing model (§2, §3) -/

theorem test_crc_check : crc16 [0x31#8, 0x32#8, 0x33#8, 0x34#8, 0x35#8, 0x36#8, 0x37#8, 0x38#8, 0x39#8] = 0x4B37#16 := by
  decide +kernel

theorem test_crc_scenarioA :
    withCrc [0x11#8, 3#8, 8#8, 0#8, 1#8, 0#8, 2#8, 0#8, 3#8, 0#8, 4#8] =
      [0x11#8, 3#8, 8#8, 0#8, 1#8, 0#8, 2#8, 0#8, 3#8, 0#8, 4#8, 0x59#8, 0xD4#8] := by decide +kernel

theorem test_timing_table :
    (charTimeout 10 9600, frameTimeout 10 9600) = (2604, 4687) ∧
    (charTimeout 10 19200, frameTimeout 10 19200) = (1302, 2343) ∧
    (charTimeout 10 19201, frameTimeout 10 19201) = (1270, 2270) ∧
    (charTimeout 12 19200, frameTimeout 12 19200) = (1562, 2812) ∧
    (charTimeout 10 5071, frameTimeout 10 5071) = (4929, 8873) ∧
    (charTimeout 10 5072, frameTimeout 10 5072) = (4929, 8872) ∧
    (charTimeout 12 1, frameTimeout 12 1) = (30000000, 54000000) ∧
    (charTimeout 10 4294967295, frameTimeout 10 4294967295) = (750, 1750) := by decide +kernel

theorem test_bitsPerChar :
    [(0#2, false), (0#2, true), (1#2, false), (1#2, true), (2#2, false), (2#2, true)].map
      (fun p => bitsPerChar p.1 p.2) = [10, 11, 11, 12, 11, 12] := by decide

/-- The gaps at the last byte's time plus 2604, 2605, 4686 and 4687 (§3), and an elapsed time across the wrap (P4). -/
theorem test_gaps :
    charGap 4604#32 2000#32 2604#32 = false ∧ charGap 4605#32 2000#32 2604#32 = true ∧
    frameGap 6686#32 2000#32 4687#32 = false ∧ frameGap 6687#32 2000#32 4687#32 = true ∧
    elapsed 49743#32 0xFFFFFF00#32 = 49999#32 ∧ respExpired 49743#32 0xFFFFFF00#32 50000#32 = false ∧
    respExpired 49744#32 0xFFFFFF00#32 50000#32 = true := by decide

/-! ## The exchange commands: the request frame, and a response (§5) -/

theorem test_readCoils_request :
    framed (exec (.readCoils 1#8 0x13#16 37#16 37#16) linked) =
      some [1#8, 1#8, 0#8, 0x13#8, 0#8, 0x25#8, 0x0C#8, 0x14#8] := by decide +kernel

/-- The padding bits of the response are left out: OUT_BITS[0] is written, OUT_BITS[1] stays `none`. -/
theorem test_readCoils_response :
    let r := step (frameIn (readReq 1#8 1#8 0#16 1#16) [1#8, 1#8, 1#8, 0xFF#8, 0x11#8, 0xC8#8])
    ending r = some (some .success, none, true) ∧ bitsAfter 1 r = some [true] ∧ bitsAfter 2 r = none := by
  decide +kernel

theorem test_readDi_request :
    framed (exec (.readDi 2#8 0#16 10#16 10#16) linked) =
      some [2#8, 2#8, 0#8, 0#8, 0#8, 0x0A#8, 0xF8#8, 0x3E#8] := by decide +kernel

theorem test_readDi_response :
    bitsAfter 10 (step (frameIn (readReq 2#8 2#8 0#16 10#16) [2#8, 2#8, 2#8, 0xA5#8, 3#8, 0xC6#8, 0xE9#8])) =
      some [true, false, true, false, false, true, false, true, true, true] := by decide +kernel

theorem test_readHr_request :
    framed (exec (.readHr 17#8 0#16 4#16 5#16) linked) =
      some [0x11#8, 3#8, 0#8, 0#8, 0#8, 4#8, 0x46#8, 0x99#8] := by decide +kernel

theorem test_readHr_response :
    let r := step (frameIn hrReq [0x11#8, 3#8, 8#8, 0#8, 1#8, 0#8, 2#8, 0#8, 3#8, 0#8, 4#8, 0x59#8, 0xD4#8])
    ending r = some (some .success, none, true) ∧ regsAfter 4 r = some [1#16, 2#16, 3#16, 4#16] ∧
      regsAfter 5 r = none := by decide +kernel

theorem test_readIr_request :
    framed (exec (.readIr 1#8 8#16 1#16 1#16) linked) =
      some [1#8, 4#8, 0#8, 8#8, 0#8, 1#8, 0xB0#8, 8#8] := by decide +kernel

theorem test_readIr_response :
    regsAfter 1 (step (frameIn (readReq 4#8 1#8 8#16 1#16) [1#8, 4#8, 2#8, 0#8, 0x0A#8, 0x39#8, 0x37#8])) =
      some [0x000A#16] := by decide +kernel

theorem test_writeCoil_request :
    framed (exec (.writeCoil 3#8 5#16 true) linked) =
      some [3#8, 5#8, 0#8, 5#8, 0xFF#8, 0#8, 0x9D#8, 0xD9#8] := by decide +kernel

theorem test_writeCoil_responses :
    [[3#8, 5#8, 0#8, 5#8, 0xFF#8, 0#8, 0x9D#8, 0xD9#8], [3#8, 0x85#8, 2#8, 0x62#8, 0x91#8],
      [3#8, 5#8, 0#8, 6#8, 0xFF#8, 0#8, 0x6D#8, 0xD9#8], [3#8, 5#8, 0#8, 5#8, 0#8, 0#8, 0xDC#8, 0x29#8],
      [3#8, 5#8, 0#8, 5#8, 0xFF#8, 0#8, 0#8, 0x18#8, 0xA9#8]].map (fun bs => ending (step (frameIn coilReq bs))) =
    [some (some .success, none, true), some (some .exceptionResponse, some 2#8, true),
      some (some .unexpectedAddress, none, true), some (some .unexpectedValue, none, true),
      some (some .unexpectedLength, none, true)] := by decide +kernel

theorem test_writeReg_request :
    framed (exec (.writeReg 1#8 1#16 3#16) linked) =
      some [1#8, 6#8, 0#8, 1#8, 0#8, 3#8, 0x98#8, 0x0B#8] := by decide +kernel

theorem test_writeReg_responses :
    [[1#8, 6#8, 0#8, 1#8, 0#8, 3#8, 0x98#8, 0x0B#8], [1#8, 6#8, 0#8, 1#8, 0#8, 4#8, 0xD9#8, 0xC9#8]].map
      (fun bs => ending (step (frameIn (singleReq 6#8 1#8 1#16 3#16) bs))) =
    [some (some .success, none, true), some (some .unexpectedValue, none, true)] := by decide +kernel

theorem test_writeCoils_request :
    framed (exec (.writeCoils 1#8 0x13#16 10#16 10#16
      [true, false, true, true, false, false, true, true, true, false]) linked) =
      some [1#8, 0x0F#8, 0#8, 0x13#8, 0#8, 0x0A#8, 2#8, 0xCD#8, 1#8, 0x72#8, 0xCB#8] := by decide +kernel

theorem test_writeCoils_responses :
    [[1#8, 0x0F#8, 0#8, 0x13#8, 0#8, 0x0A#8, 0x24#8, 9#8], [1#8, 0x0F#8, 0#8, 0x13#8, 0#8, 0x0B#8, 0xE5#8, 0xC9#8],
      [1#8, 0x0F#8, 0#8, 0x14#8, 0#8, 0x0A#8, 0x95#8, 0xC8#8],
      [1#8, 0x0F#8, 0#8, 0x13#8, 0#8, 0x0A#8, 0#8, 9#8, 0x1B#8]].map (fun bs => ending (step (frameIn coilsReq bs))) =
    [some (some .success, none, true), some (some .unexpectedQuantity, none, true),
      some (some .unexpectedAddress, none, true), some (some .unexpectedLength, none, true)] := by decide +kernel

theorem test_writeRegs_request :
    framed (exec (.writeRegs 1#8 1#16 2#16 2#16 [0x000A#16, 0x0102#16]) linked) =
      some [1#8, 0x10#8, 0#8, 1#8, 0#8, 2#8, 4#8, 0#8, 0x0A#8, 1#8, 2#8, 0x92#8, 0x30#8] := by decide +kernel

theorem test_writeRegs_responses :
    [[1#8, 0x10#8, 0#8, 1#8, 0#8, 2#8, 0x10#8, 8#8], [1#8, 0x90#8, 4#8, 0x4D#8, 0xC3#8]].map
      (fun bs => ending (step (frameIn (multiReq 0x10#8 1#8 1#16 2#16) bs))) =
    [some (some .success, none, true), some (some .exceptionResponse, some 4#8, true)] := by decide +kernel

/-- The boundary quantities and unit addresses of §1.3, §1.4 and §5.1, the order of the operand checks among them. -/
theorem test_boundaries :
    [Instr.readCoils 1#8 0#16 0#16 0#16, .readCoils 1#8 0#16 2000#16 2000#16, .readCoils 1#8 0#16 2001#16 2001#16,
      .readHr 17#8 0#16 125#16 125#16, .readHr 17#8 0#16 126#16 3#16, .readHr 17#8 0#16 4#16 3#16,
      .readHr 0#8 0#16 4#16 4#16, .readHr 247#8 0#16 4#16 4#16, .readHr 248#8 0#16 0#16 0#16,
      .writeCoil 248#8 5#16 true, .writeCoil 0#8 7#16 false].map (fun i => ending (exec i linked)) =
    [some (some .invalidQuantity, none, true), some (none, none, false), some (some .invalidQuantity, none, true),
      some (none, none, false), some (some .invalidQuantity, none, true), some (some .invalidBuffer, none, true),
      some (some .invalidId, none, true), some (none, none, false), some (some .invalidId, none, true),
      some (some .invalidId, none, true), some (none, none, false)] := by decide +kernel

/-- The common checks and the decoders' order, on the responses to `READ_HR 17, 0, 4` (§5.1, §8). -/
theorem test_response_checks :
    [[0x11#8, 3#8, 0x4D#8, 0xE1#8], [0x11#8, 3#8, 8#8],
      [0x11#8, 3#8, 8#8, 0#8, 1#8, 0#8, 2#8, 0#8, 3#8, 0#8, 4#8, 0x59#8, 0xD5#8],
      [0x12#8, 3#8, 8#8, 0#8, 1#8, 0#8, 2#8, 0#8, 3#8, 0#8, 4#8, 0x56#8, 0x90#8],
      [0x11#8, 4#8, 8#8, 0#8, 1#8, 0#8, 2#8, 0#8, 3#8, 0#8, 4#8, 0xE8#8, 0x0E#8],
      [0x11#8, 3#8, 6#8, 0#8, 1#8, 0#8, 2#8, 0#8, 3#8, 0x30#8, 0xB4#8],
      [0x11#8, 3#8, 9#8, 0#8, 1#8, 0#8, 2#8, 0#8, 3#8, 0#8, 4#8, 0x54#8, 0x44#8],
      [0x11#8, 0x83#8, 0x4C#8, 0x41#8], [0x11#8, 0x83#8, 2#8, 9#8, 0x35#8, 0x96#8],
      [0x11#8, 0x83#8, 0#8, 0x40#8, 0xF5#8], [0x12#8, 0x83#8, 2#8, 0x31#8, 0x34#8]].map
      (fun bs => ending (step (frameIn hrReq bs))) =
    [some (some .unexpectedLength, none, true), some (some .frameError, none, true),
      some (some .crcError, none, true), some (some .unexpectedId, none, true),
      some (some .unexpectedFunctionCode, none, true), some (some .unexpectedLength, none, true),
      some (some .unexpectedByteCount, none, true), some (some .unexpectedLength, none, true),
      some (some .exceptionResponse, some 2#8, true), some (some .exceptionResponse, some 0#8, true),
      some (some .unexpectedId, none, true)] := by decide +kernel

/-! ## The configuration commands (§5.4) -/

theorem test_cfgLink_9600 : nextOf (exec (.cfgLink 9600#32 0#2 false) State.reset) = some linked := by decide +kernel

theorem test_cfgLink_19200E1 :
    nextOf (exec (.cfgLink 19200#32 1#2 false) State.reset) =
      some { State.reset with
        cfgValid := true, baud := some 19200#32, parity := some 1#2, stop2 := some false, bpc := some 11#8
        charTo := some 1432#32, frameTo := some 2578#32 } := by decide +kernel

theorem test_cfgTxen :
    nextOf (exec (.cfgTxen true) State.reset) = some { State.reset with txenEn := true } := by decide +kernel

theorem test_clearExc_keepsStatus :
    ending (exec .clearExc { linked with exc := some 2#8, status := some .exceptionResponse }) =
      some (some .exceptionResponse, none, false) := by decide

/-! ## Sending and receiving (§6, §7, P1, P3) -/

/-- CFG_TXEN 1: the accept step asserts TXEN (P1). -/
theorem test_accept_assertsTxen :
    moved (step { idleWith [.poll (cmdPoll 0x0004000400001103#64 .none)] with txenEn := true }) =
      some (.txWrite, { rxTake := false, txWrite := none, txen := true, done := false }) := by decide +kernel

/-- A byte offered in IDLE is not taken (P3). -/
theorem test_idle_leavesByte :
    moved (step (idleWith [.poll (rxPoll 1300#32 0x55#8)])) = some (.idle, Output.quiet) := by decide +kernel

/-- Silence of CHAR_TO exactly stays in ACCUM; one microsecond more moves to CONFIRM (§6). -/
theorem test_accum_gap :
    (moved (step (busyWith .accum hrReq [0x11#8] [.poll (quiet 4604#32)]))).map Prod.fst = some .accum ∧
    (moved (step (busyWith .accum hrReq [0x11#8] [.poll (quiet 4605#32)]))).map Prod.fst = some .confirm := by
  decide +kernel

/-- In CONFIRM a byte before the frame gap is taken and accumulation resumes; at the gap it ends the receive (§6). -/
theorem test_confirm_byte :
    moved (step (busyWith .confirm hrReq [0x11#8] [.poll (rxPoll 5000#32 0xD4#8)])) =
      some (.accum, { rxTake := true, txWrite := none, txen := false, done := false }) ∧
    moved (step (busyWith .confirm hrReq [0x11#8] [.poll (rxPoll 6687#32 0xD4#8)])) =
      some (.idle, { rxTake := false, txWrite := none, txen := false, done := true }) := by decide +kernel

/-- A byte offered at the response timeout is taken (§6). -/
theorem test_await_byteFirst :
    moved (step (busyWith .await hrReq [] [.poll (rxPoll 101000#32 0x11#8)])) =
      some (.accum, { rxTake := true, txWrite := none, txen := false, done := false }) := by decide +kernel

/-- A command in TX_WRITE is refused (§7). -/
theorem test_busy_refused :
    refusal (step (busyWith .txWrite hrReq [] [.poll (cmdPoll 0x0000000000000043#64 .none)])) =
      some .commandWhileBusy := by decide +kernel

/-- The port reads what R55 lists: BUSY in an exchange, the STATUS number after one. -/
theorem test_portRead :
    (busyWith .await hrReq [] []).portRead.busy = true ∧
    ({ linked with status := some Status.crcError }.portRead.status) = some 6#8 := by decide +kernel

/-- A rule that needs the value of a register holding `none` faults (10_state.md R55, 93_implementation_defined.md I14):
CHAR_TO in ACCUM, FRAME_TO and T_LAST in CONFIRM, T_START in AWAIT, REQ.UNIT in TX_FLUSH. -/
theorem test_use_of_none_faults :
    let a := { busyWith .accum hrReq [0x11#8] [.poll (quiet 9000#32)] with charTo := none }
    let c := busyWith .confirm hrReq [0x11#8] [.poll (quiet 9000#32)]
    let w := { busyWith .await hrReq [] [.poll (quiet 9000#32)] with tStart := none }
    let f := busyWith .txFlush Req.unset [] [.poll (flushPoll 9000#32)]
    [faultOf (step a), faultOf (step { c with frameTo := none }), faultOf (step { c with tLast := none }),
        faultOf (step w), faultOf (step f)] =
      [some .charToUnset, some .frameToUnset, some .tLastUnset, some .tStartUnset, some .reqUnset] := by
  decide +kernel

/-- A rule that does not need the value goes on: a byte offered in ACCUM is taken without CHAR_TO (43_receive.md R233), a
frame of three bytes is a FRAME_ERROR whatever BUF holds (R238), a response of another unit is UNEXPECTED_ID without
REQ.OP (R242), and a single-write response of the wrong length needs neither REQ.ADDR nor REQ.VAL (45_single_writes.md
R302). -/
theorem test_none_that_is_not_needed :
    let a := { busyWith .accum hrReq [0x11#8] [.poll (rxPoll 9000#32 3#8)] with charTo := none }
    let short := { frameIn hrReq [1#8, 2#8, 3#8] with buf := [] }
    let other := frameIn { hrReq with op := none } (withCrc [18#8, 3#8])
    let long := frameIn { coilReq with addr := none, val := none } (withCrc [3#8, 5#8, 0#8])
    (nextOf (step a)).map (·.len) = some 2 ∧
    (ending (step short)).map (·.1) = some (some .frameError) ∧
    (ending (step other)).map (·.1) = some (some .unexpectedId) ∧
    (ending (step long)).map (·.1) = some (some .unexpectedLength) := by
  decide +kernel

/-! ## Witnesses

One theorem per statement that has hypotheses: concrete states and operands that meet them together, each clause at a
boundary of its range. -/

theorem next_of {r : Host.Outcome State Fault Refusal} (h : (nextOf r).isSome = true) : ∃ t, r = .next t := by
  cases r with
  | next t => exact ⟨t, rfl⟩
  | fault f => cases h
  | refused x => cases h

theorem next_with {r : Host.Outcome State Fault Refusal} (p : State → Bool) (h : (nextOf r).any p = true) :
    ∃ t, r = .next t ∧ p t = true := by
  cases r with
  | next t => exact ⟨t, rfl, h⟩
  | fault f => cases h
  | refused x => cases h

theorem refused_of {r : Host.Outcome State Fault Refusal} {x : Refusal} (h : refusal r = some x) : r = .refused x := by
  cases r with
  | next t => cases h
  | fault f => cases h
  | refused y => cases h; rfl

theorem linked_linkSet (s : State) (h : s.baud = linked.baud ∧ s.parity = linked.parity ∧ s.stop2 = linked.stop2 ∧
    s.bpc = linked.bpc ∧ s.charTo = linked.charTo ∧ s.frameTo = linked.frameTo) : s.LinkSet := by
  obtain ⟨h1, h2, h3, h4, h5, h6⟩ := h
  refine ⟨9600#32, 0#2, false, by decide, by decide, h1, h2, h3, ?_, ?_, ?_⟩
  · rw [h4]; decide +kernel
  · rw [h5]; decide +kernel
  · rw [h6]; decide +kernel

/-- The invariant holds of the configured idle block. -/
theorem inv_idleWith (es : List Event) : (idleWith es).Inv where
  notRefused := rfl
  bufWf := rfl
  bitsWf := rfl
  regsWf := rfl
  lenBound := Nat.zero_le _
  linkUnset h := by cases h
  linkSet _ := linked_linkSet _ ⟨rfl, rfl, rfl, rfl, rfl, rfl⟩
  busyConfigured _ := rfl
  txenOnly h := by cases h
  txenFollows _ := rfl
  latched h := absurd rfl h
  request h := by rcases h with h | h <;> cases h
  unicast h := by rcases h with h | h | h <;> cases h
  received h := by rcases h with h | h | h <;> cases h
  awaiting h := by cases h
  accumulating h := by rcases h with h | h <;> cases h
  outTxen := rfl
  outDone h := by cases h
  noUnknown h := by cases h

/-- The invariant holds of a block in an exchange whose BUF fits its FSM state. -/
theorem inv_busyWith (f : Fsm) (q : Req) (bs : List Byte) (es : List Event) (hl : bs.length ≤ Config.frameCap)
    (hq : q.Latched)
    (hr : f.transmitting → ∃ unit op data, q.unit = some unit ∧ q.op = some op ∧ bs = withCrc (unit :: op :: data) ∧
      4 ≤ data.length ∧ data.length ≤ 251)
    (hu : f.receiving → q.unit ≠ some 0#8) (ha : f = .await → bs = [])
    (hc : f = .accum ∨ f = .confirm → 1 ≤ bs.length) : (busyWith f q bs es).Inv where
  notRefused := rfl
  bufWf := Memory.wf_store (by simpa using hl) rfl
  bitsWf := rfl
  regsWf := rfl
  lenBound := hl
  linkUnset h := by cases h
  linkSet _ := linked_linkSet _ ⟨rfl, rfl, rfl, rfl, rfl, rfl⟩
  busyConfigured _ := rfl
  txenOnly h := by cases h
  txenFollows _ := rfl
  latched _ := hq
  request h := by
    obtain ⟨unit, op, data, h1, h2, rfl, h4, h5⟩ := hr h
    exact ⟨unit, op, data, h1, h2, Cells.load_store_self _ _ _, h4, h5⟩
  unicast h := hu h
  received _ := by
    have : (busyWith f q bs es).frameBytes = some bs := Cells.load_store_self _ _ _
    rw [this]; rfl
  awaiting h := ⟨by rw [ha h]; rfl, rfl⟩
  accumulating h := ⟨hc h, rfl⟩
  outTxen := rfl
  outDone h := by cases h
  noUnknown h := by cases h

theorem latched_hrReq : hrReq.Latched :=
  .inr (.inl ⟨3#8, 17#8, 0#16, 4#16, rfl, by decide, by decide, by decide, by decide, by decide⟩)

theorem inv_receiving (f : Fsm) (bs : List Byte) (es : List Event) (hl : bs.length ≤ Config.frameCap)
    (ht : ¬ f.transmitting) (ha : f = .await → bs = []) (hc : f = .accum ∨ f = .confirm → 1 ≤ bs.length) :
    (busyWith f hrReq bs es).Inv :=
  inv_busyWith f hrReq bs es hl latched_hrReq (fun h => absurd h ht) (fun _ => by decide) ha hc

theorem inv_await (es : List Event) : (busyWith .await hrReq [] es).Inv :=
  inv_receiving .await [] es (by decide) (by simp [Fsm.transmitting]) (fun _ => rfl) (by simp)

theorem inv_accum (es : List Event) : (busyWith .accum hrReq [0x11#8] es).Inv :=
  inv_receiving .accum [0x11#8] es (by decide) (by simp [Fsm.transmitting]) (by simp) (fun _ => by decide)

theorem inv_confirm (es : List Event) : (busyWith .confirm hrReq [0x11#8] es).Inv :=
  inv_receiving .confirm [0x11#8] es (by decide) (by simp [Fsm.transmitting]) (by simp) (fun _ => by decide)

theorem inv_txWrite (es : List Event) :
    (busyWith .txWrite hrReq [0x11#8, 3#8, 0#8, 0#8, 0#8, 4#8, 0x46#8, 0x99#8] es).Inv :=
  inv_busyWith .txWrite hrReq _ es (by decide) latched_hrReq
    (fun _ => ⟨17#8, 3#8, [0#8, 0#8, 0#8, 4#8], rfl, rfl, by decide +kernel, by decide, by decide⟩)
    (by simp [Fsm.receiving]) (by simp) (by simp)

/-- The polls of the witnesses: a configured idle block, and a block in an exchange. -/
theorem polls_idleWith (i : Input) (rest : List Event) : (idleWith (.poll i :: rest)).Polls i rest := ⟨rfl, rfl⟩

theorem polls_busyWith (f : Fsm) (q : Req) (bs : List Byte) (i : Input) (rest : List Event) :
    (busyWith f q bs (.poll i :: rest)).Polls i rest := ⟨rfl, rfl⟩

theorem test_witness_EncodedInstructionDecodesToItself :
    [Instr.readCoils 0xFF#8 0xFFFF#16 0xFFFF#16 0xFFFF#16, .writeCoils 0#8 0#16 0#16 0#16 [],
      .writeRegs 1#8 1#16 2#16 2#16 [10#16, 0x0102#16], .cfgLink 0xFFFFFFFF#32 2#2 true].map wellFormed =
    [true, true, true, true] := by decide

theorem test_witness_DecodedCommandIsTheEncodingOfItsInstruction :
    decode ⟨0x000004FFFFFFFF40#64, .none⟩ = .ok (.cfgLink 0xFFFFFFFF#32 0#2 true) := by decide

/-- The four refusing clauses, and the last. -/
theorem test_witness_MalformedCommandIsRefusedInOrder :
    (∀ c : Command, (idleWith [.poll (cmdPoll c.word c.wdata)]).Polls (cmdPoll c.word c.wdata) [] ∧
      (idleWith [.poll (cmdPoll c.word c.wdata)]).fsm = .idle ∧ (cmdPoll c.word c.wdata).cmd = some c) ∧
    (0x0000000000000007#64).extractLsb' 0 8 ∉ commandFormats.map Prod.fst ∧
    ((0x06#8, 0xFFFF000000000000#64) ∈ commandFormats ∧ (0x8000000300010106#64).extractLsb' 0 8 = 0x06#8 ∧
      0x8000000300010106#64 &&& 0xFFFF000000000000#64 ≠ 0#64) ∧
    ((0x0F#8, 0#64) ∈ commandFormats ∧ (0x000A000A0013010F#64).extractLsb' 0 8 = 0x0F#8 ∧
      ¬ WDataMatches 0x0F#8 ⟨0x000A000A0013010F#64, .bits (List.replicate 9 true)⟩) ∧
    ((0x40#8, 0xFFFFF80000000000#64) ∈ commandFormats ∧ (0x0000030000258040#64).extractLsb' 0 8 = 0x40#8 ∧
      0x0000030000258040#64 &&& 0xFFFFF80000000000#64 = 0#64 ∧ WDataMatches 0x40#8 ⟨0x0000030000258040#64, .none⟩ ∧
      (0x0000030000258040#64).extractLsb' 40 2 = 3#2) ∧
    (0x000A000A0013010F#64 &&& 0#64 = 0#64 ∧
      WDataMatches 0x0F#8 ⟨0x000A000A0013010F#64, .bits (List.replicate 10 true)⟩) := by
  refine ⟨fun c => ⟨polls_idleWith _ _, rfl, rfl⟩, by decide, by decide, ⟨by decide, by decide, ?_⟩,
    ⟨by decide, by decide, by decide, by simp [WDataMatches], by decide⟩, by decide, ?_⟩
  · rintro h
    simp only [WDataMatches, if_true] at h
    obtain ⟨b, hb, hl⟩ := h
    cases hb
    exact absurd hl (by decide)
  · simp only [WDataMatches, if_true]
    exact ⟨_, rfl, by decide⟩

theorem test_witness_AssembledLineIsADecodableCommand :
    assembleLine "COIL_ON 3, 5".toList = .command ⟨0x0000000100050305#64, .none⟩ := by decide +kernel

/-- `exec` answers next, or refuses (CFG_LINK with BAUD = 0). -/
theorem test_witness_StepRunsTheDecodedInstruction :
    (idleWith [.poll (cmdPoll 0x0004000400001103#64 .none)]).Polls (cmdPoll 0x0004000400001103#64 .none) [] ∧
    decode ⟨0x0004000400001103#64, .none⟩ = .ok (.readHr 17#8 0#16 4#16 4#16) ∧
    (∃ t, exec (.readHr 17#8 0#16 4#16 4#16) (idleWith []) = .next t) ∧
    decode ⟨0x0000000000000040#64, .none⟩ = .ok (.cfgLink 0#32 0#2 false) ∧
    exec (.cfgLink 0#32 0#2 false) (idleWith []) = .refused .baudZero :=
  ⟨polls_idleWith _ _, by decide, next_of (by decide +kernel), by decide, refused_of (by decide +kernel)⟩

theorem test_witness_CommandWhileBusyIsRefused :
    (busyWith .txWrite hrReq [] [.poll (cmdPoll 0x43#64 .none)]).Polls (cmdPoll 0x43#64 .none) [] ∧
    (busyWith .txWrite hrReq [] [.poll (cmdPoll 0x43#64 .none)]).fsm ≠ .idle ∧
    (cmdPoll 0x43#64 .none).cmd = some ⟨0x43#64, .none⟩ :=
  ⟨polls_busyWith _ _ _ _ _, by decide, rfl⟩

/-- A byte and tx_done are offered and left alone. -/
theorem test_witness_IdlePollWithoutCommandChangesNothing :
    let i : Input := { now := 5#32, rx := some 0x55#8, txDone := true, cmd := none }
    (idleWith [.poll i]).Polls i [] ∧ (idleWith [.poll i]).fsm = .idle ∧ i.cmd = none :=
  ⟨polls_idleWith _ _, rfl, rfl⟩

theorem test_witness_ResetGivesTheResetValues :
    (busyWith .accum hrReq [1#8] [.reset]).refused = false ∧
    (busyWith .accum hrReq [1#8] [.reset]).pending = .reset :: [] := ⟨rfl, rfl⟩

theorem test_witness_RefusedStateTakesNoStep :
    ({ linked with refused := true } : State).refused = true ∧
    step (idleWith [.poll (cmdPoll 0x07#64 .none)]) = .refused .illegalOp :=
  ⟨rfl, refused_of (by decide +kernel)⟩

/-- From AWAIT, a byte that comes at the timeout. -/
theorem test_witness_StepKeepsTheInvariant :
    (busyWith .await hrReq [] [.poll (rxPoll 101000#32 0x11#8)]).Inv ∧
    ∃ t, step (busyWith .await hrReq [] [.poll (rxPoll 101000#32 0x11#8)]) = .next t :=
  ⟨inv_await _, next_of (by decide +kernel)⟩

theorem test_witness_NoStepFaultsWithinTheInvariant :
    (busyWith .confirm hrReq [0x11#8] [.poll (quiet 6687#32)]).Inv ∧
    (busyWith .confirm hrReq [0x11#8] [.poll (quiet 6687#32)]).pending ≠ [] :=
  ⟨inv_confirm _, by decide⟩

/-- Each of the seven refusals of the block is reached (§7). -/
theorem test_witness_RefusalReasonsAreClosed :
    [step (busyWith .txWrite hrReq [] [.poll (cmdPoll 0x43#64 .none)]),
      step (idleWith [.poll (cmdPoll 0x07#64 .none)]),
      step (idleWith [.poll (cmdPoll 0x8000000300010106#64 .none)]),
      step (idleWith [.poll (cmdPoll 0x000A000A0013010F#64 (.bits []))]),
      step (idleWith [.poll (cmdPoll 0x0000030000258040#64 .none)]),
      step (idleWith [.poll (cmdPoll 0x0000000000000040#64 .none)]),
      step { State.reset with pending := [.poll (cmdPoll 0x0004000400001103#64 .none)] }].map refusal =
    [some .commandWhileBusy, some .illegalOp, some .reservedBits, some .wdataMismatch, some .parityReserved,
      some .baudZero, some .notConfigured] := by decide +kernel

/-- A step in an exchange that comes to IDLE, and a step in IDLE that drives O.done. -/
theorem test_witness_FsmTransitionsAreClosed :
    (busyWith .await hrReq [] [.poll (quiet 101000#32)]).Polls (quiet 101000#32) [] ∧
    (∃ t, step (busyWith .await hrReq [] [.poll (quiet 101000#32)]) = .next t ∧ decide (t.fsm = .idle) = true) ∧
    (∃ t, step (idleWith [.poll (cmdPoll 0x000100010000F803#64 .none)]) = .next t ∧ t.out.done = true) :=
  ⟨polls_busyWith _ _ _ _ _, next_with _ (by decide +kernel), next_with (fun t => t.out.done) (by decide +kernel)⟩

theorem test_witness_TransmittedFrameIsValid :
    let s := busyWith .txWrite hrReq [0x11#8, 3#8, 0#8, 0#8, 0#8, 4#8, 0x46#8, 0x99#8] [.poll (quiet 5#32)]
    s.Inv ∧ ∃ t, step s = .next t ∧
      decide (t.out.txWrite = some [0x11#8, 3#8, 0#8, 0#8, 0#8, 4#8, 0x46#8, 0x99#8]) = true :=
  ⟨inv_txWrite _, next_with _ (by decide +kernel)⟩

theorem test_witness_ByteIsTakenOnlyInAReceive :
    (∃ t, step (busyWith .accum hrReq [0x11#8] [.poll (rxPoll 3000#32 3#8)]) = .next t ∧ t.out.rxTake = true) ∧
    (¬ (idleWith [.poll (rxPoll 1300#32 0x55#8)]).fsm.receiving ∧
      ∃ t, step (idleWith [.poll (rxPoll 1300#32 0x55#8)]) = .next t) :=
  ⟨next_with (fun t => t.out.rxTake) (by decide +kernel), by simp [Fsm.receiving, idleWith, linked, State.reset],
    next_of (by decide +kernel)⟩

/-- A step that changes the link registers, and one that leaves them. -/
theorem test_witness_ConfigurationChangesOnlyByItsCommand :
    (∃ t, step (idleWith [.poll (cmdPoll 0x00000100004B0040#64 .none)]) = .next t ∧
      decide (t.baud = some 19200#32) = true) ∧
    (∃ t, step (busyWith .accum hrReq [0x11#8] [.poll (quiet 4605#32)]) = .next t ∧
      decide (t.baud = some 9600#32) = true) :=
  ⟨next_with _ (by decide +kernel), next_with _ (by decide +kernel)⟩

theorem test_witness_StatusIsWrittenExactlyAtTheEnd :
    (∃ t, step (busyWith .await hrReq [] [.poll (quiet 100999#32)]) = .next t ∧ (!t.out.done) = true) ∧
    (∃ t, step (busyWith .await hrReq [] [.poll (quiet 101000#32)]) = .next t ∧ t.out.done = true) :=
  ⟨next_with (fun t => !t.out.done) (by decide +kernel), next_with (fun t => t.out.done) (by decide +kernel)⟩

theorem test_witness_OutArraysAreWrittenOnlyOnReadSuccess :
    let s := frameIn (readReq 4#8 1#8 8#16 1#16) [1#8, 4#8, 2#8, 0#8, 0x0A#8, 0x39#8, 0x37#8]
    s.Polls (quiet 6687#32) [] ∧ ∃ t, step s = .next t ∧ decide (t.outRegs ≠ s.outRegs) = true :=
  ⟨polls_busyWith _ _ _ _ _, next_with _ (by decide +kernel)⟩

/-- EXC is set by an exception response and cleared by CLEAR_EXC. -/
theorem test_witness_ExcChangesOnlyByItsRules :
    (∃ t, step (frameIn hrReq [0x11#8, 0x83#8, 2#8, 0xC1#8, 0x34#8]) = .next t ∧ t.exc.isSome = true) ∧
    (∃ t, step { idleWith [.poll (cmdPoll 0x43#64 .none)] with exc := some 2#8 } = .next t ∧ t.exc.isNone = true) :=
  ⟨next_with (fun t => t.exc.isSome) (by decide +kernel), next_with (fun t => t.exc.isNone) (by decide +kernel)⟩

/-- A used buffer and a fresh one, in IDLE and in a receive of one byte. -/
theorem test_witness_BufferContentsAreNotObservable :
    (idleWith [.poll (cmdPoll 0x0004000400001103#64 .none)]).SameButBuf
      { idleWith [.poll (cmdPoll 0x0004000400001103#64 .none)] with buf := [(0, 0xAA#8), (200, 1#8)] } ∧
    (busyWith .accum hrReq [0x11#8] [.poll (rxPoll 3000#32 3#8)]).SameButBuf
      { busyWith .accum hrReq [0x11#8] [.poll (rxPoll 3000#32 3#8)] with buf := [(0, 0x11#8), (1, 0xAA#8)] } := by
  refine ⟨⟨rfl, fun h => absurd rfl h⟩, ⟨rfl, fun _ a ha => ?_⟩⟩
  have h1 : a < 1 := ha
  have h0 : a = 0 := by omega
  subst h0
  rfl

/-- The three receive states, each with its silence at the threshold exactly. -/
theorem test_witness_ReceiveEndsOnSilence :
    ((busyWith .await hrReq [] [quietPoll 101000#32, quietPoll 101000#32]).Inv ∧ (100000#32).toNat ≤ (elapsed 101000#32 1000#32).toNat) ∧
    ((busyWith .accum hrReq [0x11#8] [quietPoll 6687#32, quietPoll 6687#32]).Inv ∧ (4687#32).toNat ≤ (elapsed 6687#32 2000#32).toNat) ∧
    ((busyWith .confirm hrReq [0x11#8] [quietPoll 6687#32, quietPoll 6687#32]).Inv ∧
      (4687#32).toNat ≤ (elapsed 6687#32 2000#32).toNat) :=
  ⟨⟨inv_await _, by decide⟩, ⟨inv_accum _, by decide⟩, ⟨inv_confirm _, by decide⟩⟩

/-- The last bit of the last CRC byte of a frame is flipped. -/
theorem test_witness_ChangedByteFailsTheCrcTest :
    7 < [0x11#8, 3#8, 0#8, 0#8, 0#8, 4#8].length + 2 ∧ 0x80#8 ≠ 0#8 ∧
    [0x11#8, 3#8, 0#8, 0#8, 0#8, 4#8, 0x46#8, 0x19#8] =
      (withCrc [0x11#8, 3#8, 0#8, 0#8, 0#8, 4#8]).modify 7 (· ^^^ 0x80#8) := by decide +kernel

theorem test_witness_CfgLinkWritesTheLinkAndThresholds : 1#32 ≠ 0#32 ∧ 2#2 ≠ 3#2 := by decide

theorem test_witness_ThresholdsAreOrdered : ∃ t, exec (.cfgLink 0xFFFFFFFF#32 2#2 true) State.reset = .next t :=
  next_of (by decide +kernel)

/-- The two sides of the regime change. -/
theorem test_witness_ThresholdsAreNonIncreasingInBaud :
    19200#32 ≤ 19201#32 ∧ (∃ t, exec (.cfgLink 19200#32 0#2 false) State.reset = .next t) ∧
    (∃ t, exec (.cfgLink 19201#32 0#2 false) State.reset = .next t) :=
  ⟨by decide, next_of (by decide +kernel), next_of (by decide +kernel)⟩

theorem test_witness_ElapsedIsTheTrueInterval : TimeDuty 4294967040 (4294967040 + (2 ^ 32 - 1)) :=
  ⟨by omega, by simp only [Config.timeW]; omega⟩

theorem test_witness_CfgLinkRefusesReservedParityAndZeroBaud : 2#2 ≠ 3#2 := by decide

theorem test_witness_ExchangeBeforeCfgLinkIsRefused :
    State.reset.cfgValid = false ∧ (Instr.writeRegs 0#8 1#16 1#16 1#16 [1#16]).op.isExchange = true ∧
    wellFormed (.writeRegs 0#8 1#16 1#16 1#16 [1#16]) = true := by decide

/-- Units 1 and 247, quantities 1, 125 and 2000, a capacity that just suffices. -/
theorem test_witness_AcceptedReadLatchesAndFramesTheRequest :
    linked.cfgValid = true ∧ (1#8 ≠ 0#8 ∧ (247#8).toNat ≤ 247) ∧ 1 ≤ (1#16).toNat ∧ (2000#16).toNat ≤ (2000#16).toNat ∧
    (2000#16).toNat ≤ 2000 ∧ (125#16).toNat ≤ 125 := by decide

/-- Units 0 and 248, quantities 0 and 126, a capacity one too small. -/
theorem test_witness_InvalidReadEndsInItsAcceptStep :
    let first := fun (u : Byte) (q c : U16) =>
      if u = 0#8 ∨ 247 < u.toNat then some Status.invalidId
      else if q = 0#16 ∨ 125 < q.toNat then some .invalidQuantity
      else if c.toNat < q.toNat then some .invalidBuffer
      else none
    linked.cfgValid = true ∧ first 0#8 4#16 4#16 = some .invalidId ∧ first 248#8 0#16 0#16 = some .invalidId ∧
    first 17#8 0#16 0#16 = some .invalidQuantity ∧ first 17#8 126#16 3#16 = some .invalidQuantity ∧
    first 17#8 4#16 3#16 = some .invalidBuffer := by decide

theorem test_witness_AcceptedSingleWriteLatchesAndFramesTheRequest :
    linked.cfgValid = true ∧ (0#8).toNat ≤ 247 ∧ (247#8).toNat ≤ 247 := by decide

theorem test_witness_WriteToInvalidUnitEndsInItsAcceptStep :
    linked.cfgValid = true ∧ 247 < (248#8).toNat ∧ [true].length = (1#16).toNat ∧ [7#16].length = (1#16).toNat := by
  decide

theorem test_witness_AcceptedWriteCoilsPacksTheElements :
    linked.cfgValid = true ∧ (247#8).toNat ≤ 247 ∧ 1 ≤ (1968#16).toNat ∧ (1968#16).toNat ≤ 1968 ∧
    (1968#16).toNat ≤ (1969#16).toNat ∧ (List.replicate 1969 true).length = (1969#16).toNat := by
  decide +kernel

theorem test_witness_AcceptedWriteRegsLaysOutTheRegisters :
    linked.cfgValid = true ∧ (0#8).toNat ≤ 247 ∧ 1 ≤ (123#16).toNat ∧ (123#16).toNat ≤ 123 ∧
    (123#16).toNat ≤ (123#16).toNat ∧ (List.replicate 123 7#16).length = (123#16).toNat := by
  decide +kernel

/-- A quantity of 0, one of 124, and one element too few. -/
theorem test_witness_InvalidMultipleWriteEndsInItsAcceptStep :
    linked.cfgValid = true ∧ (247#8).toNat ≤ 247 ∧ [true].length = (1#16).toNat ∧ [7#16].length = (1#16).toNat ∧
    (0#16 = 0#16 ∨ 1968 < (0#16).toNat) ∧ (124#16 = 0#16 ∨ 123 < (124#16).toNat) ∧
    ¬ (2#16 = 0#16 ∨ 123 < (2#16).toNat) ∧ ¬ (2#16 = 0#16 ∨ 1968 < (2#16).toNat) ∧
    (1#16).toNat < (2#16).toNat := by
  decide

theorem test_witness_MultipleWriteWithWrongWDataIsRefused :
    [true, true].length ≠ (1#16).toNat ∧ ([] : List U16).length ≠ (1#16).toNat := by decide

theorem test_witness_TxWriteHandsOverTheFrame :
    let s := busyWith .txWrite hrReq [0x11#8, 3#8, 0#8, 0#8, 0#8, 4#8, 0x46#8, 0x99#8] [.poll (quiet 5#32)]
    s.Polls (quiet 5#32) [] ∧ s.fsm = .txWrite ∧ (quiet 5#32).cmd = none ∧
    Cells.load 0 s.len s.buf = some [0x11#8, 3#8, 0#8, 0#8, 0#8, 4#8, 0x46#8, 0x99#8] :=
  ⟨polls_busyWith _ _ _ _ _, rfl, rfl, by decide +kernel⟩

/-- No flush yet; a flush of a broadcast; a flush of a unicast request. -/
theorem test_witness_TxFlushReleasesTxenAndStartsTheWait :
    (busyWith .txFlush hrReq [] [.poll (quiet 5#32)]).Polls (quiet 5#32) [] ∧ (quiet 5#32).txDone = false ∧
    (busyWith .txFlush (singleReq 5#8 0#8 7#16 0#16) [] [.poll (flushPoll 5#32)]).Polls (flushPoll 5#32) [] ∧
    (flushPoll 5#32).txDone = true ∧ (singleReq 5#8 0#8 7#16 0#16).unit = some 0#8 ∧
    (busyWith .txFlush hrReq [] [.poll (flushPoll 5#32)]).Polls (flushPoll 5#32) [] ∧
    hrReq.unit = some 17#8 ∧ 17#8 ≠ 0#8 :=
  ⟨polls_busyWith _ _ _ _ _, rfl, polls_busyWith _ _ _ _ _, rfl, rfl, polls_busyWith _ _ _ _ _, rfl, by decide⟩

/-- A broadcast of each of the four writes, the multiple ones at their largest quantities. -/
theorem test_witness_BroadcastWriteEndsAtTheFlush :
    (∀ ins : Instr,
      let s := idleWith [.poll { quiet 1#32 with cmd := some (encode ins) }, .poll (quiet 2#32), .poll (flushPoll 3#32)]
      s.refused = false ∧ s.fsm = .idle ∧ s.cfgValid = true ∧ (quiet 2#32).cmd = none ∧ (flushPoll 3#32).cmd = none ∧
      (flushPoll 3#32).txDone = true) ∧
    ((List.replicate 1968 true).length = (1968#16).toNat ∧ 1 ≤ (1968#16).toNat ∧ (1968#16).toNat ≤ 1968 ∧
      (1968#16).toNat ≤ (1968#16).toNat) ∧
    ((List.replicate 123 5#16).length = (123#16).toNat ∧ 1 ≤ (123#16).toNat ∧ (123#16).toNat ≤ 123 ∧
      (123#16).toNat ≤ (123#16).toNat) := by
  refine ⟨fun ins => ⟨rfl, rfl, rfl, rfl, rfl, rfl⟩, ?_, ?_⟩ <;> decide +kernel

/-- A byte in AWAIT, in ACCUM, and in CONFIRM one microsecond before the frame gap; LEN 255 and 256. -/
theorem test_witness_OfferedByteIsStoredOrOverruns :
    (busyWith .await hrReq [] [.poll (rxPoll 5#32 1#8)]).TakesByte (rxPoll 5#32 1#8) ∧
    (busyWith .accum hrReq [1#8] [.poll (rxPoll 5#32 1#8)]).TakesByte (rxPoll 5#32 1#8) ∧
    (busyWith .confirm hrReq [1#8] [.poll (rxPoll 6686#32 1#8)]).TakesByte (rxPoll 6686#32 1#8) ∧
    (rxPoll 6686#32 1#8).cmd = none ∧ (rxPoll 6686#32 1#8).rx = some 1#8 ∧
    (busyWith .accum hrReq [1#8] [.poll (rxPoll 5#32 1#8)]).Polls (rxPoll 5#32 1#8) [] ∧
    ({ busyWith .accum hrReq [1#8] [.poll (rxPoll 5#32 1#8)] with len := 255 } : State).len < 256 ∧
    ({ busyWith .accum hrReq [1#8] [.poll (rxPoll 5#32 1#8)] with len := 256 } : State).len = 256 :=
  ⟨.inl rfl, .inr (.inl rfl), .inr (.inr ⟨rfl, 2000#32, 4687#32, rfl, rfl, by decide⟩), rfl, rfl,
    polls_busyWith _ _ _ _ _, by decide, rfl⟩

theorem test_witness_AwaitTimesOutAtRespTo :
    (busyWith .await hrReq [] [.poll (quiet 101000#32)]).Polls (quiet 101000#32) [] ∧
    (busyWith .await hrReq [] []).tStart = some 1000#32 ∧
    (busyWith .await hrReq [] []).respTo.toNat ≤ (elapsed 101000#32 1000#32).toNat ∧
    ¬ (busyWith .await hrReq [] []).respTo.toNat ≤ (elapsed 100999#32 1000#32).toNat :=
  ⟨polls_busyWith _ _ _ _ _, rfl, by decide +kernel, by decide +kernel⟩

theorem test_witness_AccumConfirmsAfterCharTo :
    (busyWith .accum hrReq [1#8] [.poll (quiet 4605#32)]).Polls (quiet 4605#32) [] ∧
    (busyWith .accum hrReq [1#8] []).tLast = some 2000#32 ∧ (busyWith .accum hrReq [1#8] []).charTo = some 2604#32 ∧
    (2604#32).toNat < (elapsed 4605#32 2000#32).toNat ∧ ¬ (2604#32).toNat < (elapsed 4604#32 2000#32).toNat :=
  ⟨polls_busyWith _ _ _ _ _, rfl, rfl, by decide, by decide⟩

theorem test_witness_ConfirmRejectsAByteAtTheFrameGap :
    (busyWith .confirm hrReq [1#8] [.poll (rxPoll 6687#32 1#8)]).Polls (rxPoll 6687#32 1#8) [] ∧
    (rxPoll 6687#32 1#8).rx = some 1#8 ∧ (4687#32).toNat ≤ (elapsed 6687#32 2000#32).toNat ∧
    (busyWith .confirm hrReq [1#8] [.poll (quiet 6686#32)]).Polls (quiet 6686#32) [] ∧
    (quiet 6686#32).rx = none ∧ ¬ (4687#32).toNat ≤ (elapsed 6686#32 2000#32).toNat :=
  ⟨polls_busyWith _ _ _ _ _, rfl, by decide, polls_busyWith _ _ _ _ _, rfl, by decide⟩

theorem test_witness_RejectPolicyEndsOnAnyByte :
    (rxPoll 5#32 1#8).rx = some 1#8 ∧ (quiet 5#32).rx = none ∧
    (busyWith .confirm hrReq [1#8] []).tLast = some 2000#32 ∧
    (busyWith .confirm hrReq [1#8] []).frameTo = some 4687#32 := ⟨rfl, rfl, rfl, rfl⟩

/-- A response frame at its frame gap. -/
theorem atFrameEnd_frameIn (q : Req) (bs : List Byte) : (frameIn q bs).AtFrameEnd (quiet 6687#32) [] bs :=
  ⟨⟨rfl, rfl⟩, rfl, rfl, rfl, ⟨2000#32, 4687#32, rfl, rfl, by decide⟩, Cells.load_store_self _ _ _⟩

/-- Three bytes, and four bytes with a wrong CRC. -/
theorem test_witness_ShortOrCorruptFrameEndsTheExchange :
    (frameIn hrReq [0x11#8, 3#8, 8#8]).AtFrameEnd (quiet 6687#32) [] [0x11#8, 3#8, 8#8] ∧
    [0x11#8, 3#8, 8#8].length < 4 ∧
    (frameIn hrReq [0x11#8, 3#8, 0x4D#8, 0xE0#8]).AtFrameEnd (quiet 6687#32) [] [0x11#8, 3#8, 0x4D#8, 0xE0#8] ∧
    4 ≤ [0x11#8, 3#8, 0x4D#8, 0xE0#8].length ∧
    [0x4D#8, 0xE0#8] ≠ [(crc16 [0x11#8, 3#8]).extractLsb' 0 8, (crc16 [0x11#8, 3#8]).extractLsb' 8 8] :=
  ⟨atFrameEnd_frameIn _ _, by decide, atFrameEnd_frameIn _ _, by decide, by decide +kernel⟩

/-- A frame of unit 18; an exception response without a code, and with one; a frame of function code 0x84. -/
theorem test_witness_CommonChecksDecideInOrder :
    (∀ (u f : Byte) (data : List Byte),
      (frameIn hrReq (withCrc (u :: f :: data))).AtFrameEnd (quiet 6687#32) [] (withCrc (u :: f :: data)) ∧
      (frameIn hrReq (withCrc (u :: f :: data))).req.unit = some 17#8 ∧
      (frameIn hrReq (withCrc (u :: f :: data))).req.op = some 3#8) ∧
    18#8 ≠ 17#8 ∧ 0x83#8 = 3#8 + 0x80#8 ∧ 0x84#8 ≠ 3#8 + 0x80#8 ∧ 0x84#8 ≠ 3#8 :=
  ⟨fun _ _ _ => ⟨atFrameEnd_frameIn _ _, rfl, rfl⟩, by decide, by decide, by decide, by decide⟩

/-- A bit read and a register read, with a payload one byte too long, and with a byte count one too high. -/
theorem test_witness_ReadResponseLengthAndByteCountAreChecked :
    let q := readReq 1#8 1#8 0#16 37#16
    ((frameIn q (withCrc [1#8, 1#8, 5#8])).AtFrameEnd (quiet 6687#32) [] (withCrc (1#8 :: 1#8 :: [5#8])) ∧
      q.unit = some 1#8 ∧ q.op = some 1#8 ∧ q.qty = some 37#16 ∧ 5 = ((37#16).toNat + 7) / 8 ∧
      [5#8].length ≠ 1 + 5) ∧
    ((frameIn hrReq (withCrc [17#8, 3#8, 9#8, 0#8, 1#8, 0#8, 2#8, 0#8, 3#8, 0#8, 4#8])).AtFrameEnd (quiet 6687#32) []
        (withCrc (17#8 :: 3#8 :: 9#8 :: [0#8, 1#8, 0#8, 2#8, 0#8, 3#8, 0#8, 4#8])) ∧
      hrReq.qty = some 4#16 ∧ 8 = 2 * (4#16).toNat ∧
      [9#8, 0#8, 1#8, 0#8, 2#8, 0#8, 3#8, 0#8, 4#8].length = 1 + 8 ∧ (9#8).toNat ≠ 8) :=
  ⟨⟨atFrameEnd_frameIn _ _, rfl, rfl, rfl, by decide, by decide⟩,
    ⟨atFrameEnd_frameIn _ _, rfl, by decide, by decide, by decide⟩⟩

/-- Quantity 1, whose byte has seven padding bits, and quantity 2000. -/
theorem test_witness_BitReadResponseUnpacksIntoOutBits :
    let q := readReq 2#8 1#8 0#16 1#16
    ((frameIn q (withCrc [1#8, 2#8, 1#8, 0xFF#8])).AtFrameEnd (quiet 6687#32) []
        (withCrc (1#8 :: 2#8 :: 1#8 :: [0xFF#8])) ∧
      q.unit = some 1#8 ∧ q.op = some 2#8 ∧ q.qty = some 1#16 ∧ (1#16).toNat ≤ 2000 ∧
      [0xFF#8].length = ((1#16).toNat + 7) / 8 ∧ (1#8).toNat = ((1#16).toNat + 7) / 8) ∧
    ((2000#16).toNat ≤ 2000 ∧ (List.replicate 250 0x55#8).length = ((2000#16).toNat + 7) / 8 ∧
      (250#8).toNat = ((2000#16).toNat + 7) / 8) :=
  ⟨⟨atFrameEnd_frameIn _ _, rfl, rfl, rfl, by decide, by decide, by decide⟩, by decide, by decide +kernel, by decide⟩

/-- Quantity 1 and quantity 125. -/
theorem test_witness_RegisterReadResponseUnpacksIntoOutRegs :
    let q := readReq 4#8 1#8 8#16 1#16
    ((frameIn q (withCrc [1#8, 4#8, 2#8, 0#8, 10#8])).AtFrameEnd (quiet 6687#32) []
        (withCrc (1#8 :: 4#8 :: 2#8 :: [0#8, 10#8])) ∧
      q.unit = some 1#8 ∧ q.op = some 4#8 ∧ q.qty = some 1#16 ∧ (1#16).toNat ≤ 125 ∧
      [0#8, 10#8].length = 2 * (1#16).toNat ∧ (2#8).toNat = 2 * (1#16).toNat) ∧
    ((125#16).toNat ≤ 125 ∧ (List.replicate 250 0x55#8).length = 2 * (125#16).toNat ∧
      (250#8).toNat = 2 * (125#16).toNat) :=
  ⟨⟨atFrameEnd_frameIn _ _, rfl, rfl, rfl, by decide, by decide, by decide⟩, by decide, by decide +kernel, by decide⟩

/-- Data of length 5, and data of length 4. -/
theorem test_witness_SingleWriteResponseMustEcho :
    (∀ data : List Byte,
      (frameIn coilReq (withCrc (3#8 :: 5#8 :: data))).AtFrameEnd (quiet 6687#32) [] (withCrc (3#8 :: 5#8 :: data))) ∧
    coilReq.unit = some 3#8 ∧ coilReq.op = some 5#8 ∧ coilReq.addr = some 5#16 ∧ coilReq.val = some 0xFF00#16 ∧
    [0#8, 5#8, 0xFF#8, 0#8, 0#8].length ≠ 4 :=
  ⟨fun _ => atFrameEnd_frameIn _ _, rfl, rfl, rfl, rfl, by decide⟩

theorem test_witness_MultipleWriteResponseMustEcho :
    (∀ data : List Byte,
      (frameIn coilsReq (withCrc (1#8 :: 0x0F#8 :: data))).AtFrameEnd (quiet 6687#32) []
        (withCrc (1#8 :: 0x0F#8 :: data))) ∧
    coilsReq.unit = some 1#8 ∧ coilsReq.op = some 0x0F#8 ∧ coilsReq.addr = some 0x13#16 ∧
    coilsReq.qty = some 10#16 ∧ [0#8, 0x13#8, 0#8].length ≠ 4 :=
  ⟨fun _ => atFrameEnd_frameIn _ _, rfl, rfl, rfl, rfl, by decide⟩

/-- `READ_IR 247, 8, 1` with the thresholds met exactly and the bytes all at one time, across a wrap of the clock. -/
theorem test_witness_RegisterReadExchangeReturnsTheRegisters :
    let regs : List U16 := [0xA5C3#16]
    let response := withCrc (247#8 :: 4#8 :: BitVec.ofNat 8 (2 * regs.length) :: regs.flatMap be16)
    let times : List Time := List.replicate 7 0xFFFFFF00#32
    let i1 : Input := { quiet 0#32 with cmd := some (encode (.readIr 247#8 8#16 (BitVec.ofNat 16 regs.length) 1#16)) }
    let s := idleWith (.poll i1 :: .poll (quiet 1#32) :: .poll (flushPoll 2#32) ::
      (bytePolls response times ++ quietPoll 2349#32 :: quietPoll 4431#32 :: []))
    s.refused = false ∧ s.fsm = .idle ∧ s.cfgValid = true ∧ s.charTo = some 2604#32 ∧ s.frameTo = some 4687#32 ∧
    247#8 ≠ 0#8 ∧ (247#8).toNat ≤ 247 ∧ 1 ≤ regs.length ∧ regs.length ≤ 125 ∧ regs.length ≤ (1#16).toNat ∧
    (quiet 1#32).cmd = none ∧ (flushPoll 2#32).cmd = none ∧ (flushPoll 2#32).txDone = true ∧
    times.length = response.length ∧ times.getLast? = some 0xFFFFFF00#32 ∧
    (2604#32).toNat < (elapsed 2349#32 0xFFFFFF00#32).toNat ∧
    (4687#32).toNat ≤ (elapsed 4431#32 0xFFFFFF00#32).toNat := by decide +kernel

end Sys2Proof.Tests
end

section
/-! SUPPORT. The statements of 10_state.md about the state: the invariant at reset and over every step, what a poll may
write to the configuration registers, STATUS and EXC, and which polls run a command. -/

namespace Sys2Proof.Machine

/-! ## The FSM states as sets -/

theorem Fsm.idle_not_transmitting : ¬ Fsm.idle.transmitting := by simp [Fsm.transmitting]

theorem Fsm.idle_not_receiving : ¬ Fsm.idle.receiving := by simp [Fsm.receiving]

theorem Fsm.receiving.ne_idle {f : Fsm} (h : f.receiving) : f ≠ .idle := by
  rintro rfl; exact Fsm.idle_not_receiving h

theorem Fsm.receiving.not_transmitting {f : Fsm} (h : f.receiving) : ¬ f.transmitting := by
  rcases h with rfl | rfl | rfl <;> simp [Fsm.transmitting]

theorem Fsm.transmitting.not_receiving {f : Fsm} (h : f.transmitting) : ¬ f.receiving :=
  fun hr => hr.not_transmitting h

/-! ## The invariant holds at reset -/

/-- Settles O12: at reset no register holds a value, FSM is IDLE and every store is empty. -/
theorem invariantHoldsAtReset : Obligations.InvariantHoldsAtReset where
  notRefused := rfl
  bufWf := rfl
  bitsWf := rfl
  regsWf := rfl
  lenBound := Nat.zero_le _
  linkUnset _ := ⟨rfl, rfl, rfl, rfl, rfl, rfl⟩
  linkSet := nofun
  busyConfigured hf := absurd rfl hf
  txenOnly := nofun
  txenFollows _ := rfl
  latched hf := absurd rfl hf
  request hf := absurd hf Fsm.idle_not_transmitting
  unicast hf := absurd hf Fsm.idle_not_receiving
  received hf := absurd hf Fsm.idle_not_receiving
  awaiting := nofun
  accumulating := by simp [State.reset]
  outTxen := rfl
  outDone := nofun
  noUnknown := nofun

/-! ## The operations of a step keep the invariant

A poll clears the output record first and drives TXEN on it last. An operation that leaves TXEN alone keeps `Inv` as it
stands; one that writes TXEN keeps it once TXEN is driven on the output record (the clause `outTxen`). Each lemma lists
the clauses its operation touches, the others come from the state before. -/

section Inv

variable {s t : State}

theorem State.Inv.resetEvent (h : s.Inv) (rest : List Event) : (s.resetEvent rest).Inv :=
  { invariantHoldsAtReset with notRefused := h.notRefused }

theorem State.Inv.begin (h : s.Inv) (rest : List Event) : (s.begin rest).driveTxen.Inv :=
  { h with
    outTxen := rfl
    outDone := nofun }

theorem State.Inv.txen_eq_false (h : s.Inv) (hf : ¬ s.fsm.transmitting) : s.txen = false :=
  Bool.eq_false_iff.2 fun ht => hf (h.txenOnly ht)

theorem State.releaseTxen_eq_self (h : s.txen = false) : s.releaseTxen = s := by
  cases s; cases h; rfl

/-! ### The end of a command -/

/-- With TXEN released, a raise leaves IDLE, where the clauses about an exchange in flight say nothing. -/
theorem State.Inv.releaseTxen_raise (h : s.Inv) {st : Status} (hst : st ≠ .unknownCommError) :
    (s.releaseTxen.raise st).driveTxen.Inv :=
  { h with
    busyConfigured := fun hf => absurd rfl hf
    txenOnly := nofun
    txenFollows := fun hf => absurd hf Fsm.idle_not_transmitting
    latched := fun hf => absurd rfl hf
    request := fun hf => absurd hf Fsm.idle_not_transmitting
    unicast := fun hf => absurd hf Fsm.idle_not_receiving
    received := fun hf => absurd hf Fsm.idle_not_receiving
    awaiting := nofun
    accumulating := by simp
    outTxen := rfl
    outDone := fun _ => ⟨rfl, rfl⟩
    noUnknown := by simpa using hst }

theorem State.Inv.raise (h : s.Inv) (hf : ¬ s.fsm.transmitting) {st : Status} (hst : st ≠ .unknownCommError) :
    (s.raise st).driveTxen.Inv := by
  have := h.releaseTxen_raise hst
  rwa [State.releaseTxen_eq_self (h.txen_eq_false hf)] at this

theorem State.Inv.takeRx (h : s.Inv) : s.takeRx.Inv := { h with }

theorem State.Inv.captureExc (h : s.Inv) (code : Byte) : (s.captureExc code).Inv := { h with }

theorem State.Inv.unpackBits (h : s.Inv) {n : Nat} (hn : n ≤ Config.outBitsN) (bs : List Byte) :
    (s.unpackBits n bs).Inv :=
  { h with bitsWf := Cells.wf_store (by simp; omega) h.bitsWf }

theorem State.Inv.unpackRegs (h : s.Inv) {n : Nat} (hn : n ≤ Config.outRegsN) (bs : List Byte) :
    (s.unpackRegs n bs).Inv :=
  { h with regsWf := Cells.wf_store (by simp; omega) h.regsWf }

theorem FrameEnd.inv (he : FrameEnd s t) (h : s.driveTxen.Inv) (hf : s.fsm = .confirm) : t.driveTxen.Inv := by
  have hn : ¬ s.fsm.transmitting := Fsm.receiving.not_transmitting (.inr (.inr hf))
  cases he with
  | plain st hst => exact h.raise hn hst
  | exception code => exact (h.captureExc code).raise hn (by decide)
  | bits n bs hn' _ => exact (h.unpackBits hn' bs).raise hn (by decide)
  | regs n bs hn' _ => exact (h.unpackRegs hn' bs).raise hn (by decide)

/-! ### The commands -/

theorem State.Inv.setLink (h : s.Inv) {b : TimeReg} {p : BitVec 2} (hb : b ≠ 0#32) (hp : p ≠ 3#2) (d : Bool) :
    (s.setLink b p d).Inv :=
  { h with
    linkUnset := nofun
    linkSet := fun _ => ⟨b, p, d, hb, hp, rfl, rfl, rfl, rfl, rfl, rfl⟩
    busyConfigured := fun _ => rfl }

theorem State.Inv.setRespTo (h : s.Inv) (v : TimeReg) : (s.setRespTo v).Inv := { h with }

theorem State.Inv.setTxenEn (h : s.Inv) (hf : ¬ s.fsm.transmitting) (en : Bool) : (s.setTxenEn en).Inv :=
  { h with txenFollows := fun ht => absurd ht hf }

theorem State.Inv.clearExc (h : s.Inv) : s.clearExc.Inv := { h with }

/-- The accepted exchange holds its request: the frame written to BUF is read back as it was written. -/
theorem State.holdsRequest_beginExchange (s : State) {q : Req} {bs : List Byte} (hb : IsRequest q bs) :
    (s.beginExchange q bs).HoldsRequest := by
  obtain ⟨unit, op, data, hu, ho, rfl, h4, h251⟩ := hb
  exact ⟨unit, op, data, hu, ho, Cells.load_store_self 0 _ s.buf, h4, h251⟩

theorem IsRequest.length_withCrc_le {q : Req} {bs : List Byte} (hb : IsRequest q bs) :
    (withCrc bs).length ≤ Config.frameCap := by
  obtain ⟨unit, op, data, -, -, rfl, -, h251⟩ := hb
  have : Config.frameCap = 256 := rfl
  simp; omega

theorem State.Inv.beginExchange (h : s.Inv) (hd : s.out.done = false) (hc : s.cfgValid = true) {q : Req}
    {bs : List Byte} (hq : q.Latched) (hb : IsRequest q bs) : (s.beginExchange q bs).driveTxen.Inv :=
  have ht : Fsm.txWrite.transmitting := .inl rfl
  { h with
    bufWf := Memory.wf_store (by simpa using hb.length_withCrc_le) h.bufWf
    lenBound := hb.length_withCrc_le
    busyConfigured := fun _ => hc
    txenOnly := fun _ => ht
    txenFollows := fun _ => rfl
    latched := fun _ => hq
    request := fun _ => s.holdsRequest_beginExchange hb
    unicast := fun hf => absurd hf ht.not_receiving
    received := fun hf => absurd hf ht.not_receiving
    awaiting := nofun
    accumulating := by simp
    outTxen := rfl
    outDone := fun hd' => by simp [hd] at hd' }

theorem Status.IsValidation.ne_unknown {st : Status} (h : st.IsValidation) : st ≠ .unknownCommError := by
  rcases h with rfl | rfl | rfl <;> decide

theorem ExecCase.inv {i : Instr} (he : ExecCase i s t) (h : s.driveTxen.Inv) (hf : s.fsm = .idle)
    (hd : s.out.done = false) : t.driveTxen.Inv := by
  have hn : ¬ s.fsm.transmitting := hf ▸ Fsm.idle_not_transmitting
  cases he with
  | cfgLink b p d _ hp hb => exact h.setLink hb hp d
  | cfgRespTo v _ => exact h.setRespTo v
  | cfgTxen en _ => exact h.setTxenEn hn en
  | clearExc _ => exact h.clearExc
  | invalid st _ _ hst => exact h.raise hn hst.ne_unknown
  | accepted q bs _ hc hq hb => exact h.beginExchange hd hc hq hb

/-! ### The transmit and the receive states -/

theorem State.Inv.sendFrame (h : s.Inv) (hf : s.fsm = .txWrite) (bs : List Byte) : (s.sendFrame bs).Inv :=
  have ht : Fsm.txFlush.transmitting := .inr rfl
  have ht' : s.fsm.transmitting := .inl hf
  { h with
    busyConfigured := fun _ => h.busyConfigured (by simp [hf])
    txenOnly := fun _ => ht
    txenFollows := fun _ => h.txenFollows ht'
    latched := fun _ => h.latched (by simp [hf])
    request := fun _ => h.request ht'
    unicast := fun hr => absurd hr ht.not_receiving
    received := fun hr => absurd hr ht.not_receiving
    awaiting := nofun
    accumulating := by simp
    outDone := fun hd => by simpa [hf] using (h.outDone hd).1 }

/-- An exchange that goes on after the flush is for a unicast unit, and waits with TXEN released and LEN 0. -/
theorem State.Inv.startAwait (h : s.Inv) (hf : s.fsm = .txFlush) (hu : s.req.unit ≠ some 0#8) (now : Time) :
    (s.releaseTxen.startAwait now).driveTxen.Inv :=
  have hr : Fsm.await.receiving := .inl rfl
  { h with
    lenBound := Nat.zero_le _
    busyConfigured := fun _ => h.busyConfigured (by simp [hf])
    txenOnly := nofun
    txenFollows := fun ht => absurd ht hr.not_transmitting
    latched := fun _ => h.latched (by simp [hf])
    request := fun ht => absurd ht hr.not_transmitting
    unicast := fun _ => hu
    received := fun _ => rfl
    awaiting := fun _ => ⟨rfl, rfl⟩
    accumulating := by simp
    outTxen := rfl
    outDone := fun hd => by simpa [hf] using (h.outDone hd).1 }

/-- A received byte below FRAME_CAP extends the bytes that stand in BUF by one. -/
theorem State.Inv.storeRx (h : s.Inv) (hf : s.fsm.receiving) (hl : s.len < Config.frameCap) (b : Byte) (now : Time) :
    (s.storeRx b now).Inv :=
  have hr : Fsm.accum.receiving := .inr (.inl rfl)
  { h with
    bufWf := Memory.wf_set b hl h.bufWf
    lenBound := hl
    busyConfigured := fun _ => h.busyConfigured hf.ne_idle
    txenOnly := fun ht => absurd (h.txenOnly ht) hf.not_transmitting
    txenFollows := fun ht => absurd ht hr.not_transmitting
    latched := fun _ => h.latched hf.ne_idle
    request := fun ht => absurd ht hr.not_transmitting
    unicast := fun _ => h.unicast hf
    received := fun _ => by
      obtain ⟨bs, hbs⟩ := Option.isSome_iff_exists.1 (h.received hf)
      exact Option.isSome_iff_exists.2 ⟨_, Cells.load_set_snoc b hbs⟩
    awaiting := nofun
    accumulating := fun _ => ⟨Nat.succ_pos _, rfl⟩
    outDone := fun hd => absurd (h.outDone hd).1 hf.ne_idle }

theorem State.Inv.toConfirm (h : s.Inv) (hf : s.fsm = .accum) : s.toConfirm.Inv :=
  have hr : s.fsm.receiving := .inr (.inl hf)
  have hr' : Fsm.confirm.receiving := .inr (.inr rfl)
  { h with
    busyConfigured := fun _ => h.busyConfigured hr.ne_idle
    txenOnly := fun ht => absurd (h.txenOnly ht) hr.not_transmitting
    txenFollows := fun ht => absurd ht hr'.not_transmitting
    latched := fun _ => h.latched hr.ne_idle
    request := fun ht => absurd ht hr'.not_transmitting
    unicast := fun _ => h.unicast hr
    received := fun _ => h.received hr
    awaiting := nofun
    accumulating := fun _ => h.accumulating (.inl hf)
    outDone := fun hd => absurd (h.outDone hd).1 hr.ne_idle }

/-! ### The step -/

/-- Every case of a poll keeps the invariant, the output record having been cleared before. -/
theorem PollCase.inv {i : Input} (hu : PollCase i s t) (h : s.driveTxen.Inv) (hd : s.out.done = false) :
    t.driveTxen.Inv := by
  cases hu with
  | quietIdle | flushing | waiting => exact h
  | command c ins _ hf _ _ he => exact he.inv h hf hd
  | sent bs hf _ => exact h.sendFrame hf bs
  | broadcast _ _ _ => exact h.releaseTxen_raise (by decide)
  | flushed u hf _ hu h0 => exact h.startAwait hf (by simpa [hu] using h0) i.now
  | overrun b hf _ _ => exact h.takeRx.raise hf.not_transmitting (by decide)
  | byte b hf _ hl => exact h.takeRx.storeRx hf hl b i.now
  | responseTimeout hf _ => exact h.raise (Fsm.receiving.not_transmitting (.inl hf)) (by decide)
  | charGap hf _ => exact h.toConfirm hf
  | lateByte hf _ => exact h.raise (Fsm.receiving.not_transmitting (.inr (.inr hf))) (by decide)
  | frameEnd _ hf _ he => exact he.inv h hf

end Inv

/-- Settles O13, by the cases of a step: the reset event, and the poll with its cleared output record. -/
theorem stepKeepsTheInvariant : Obligations.StepKeepsTheInvariant := by
  intro s t h ht
  obtain ⟨hr, ⟨rest, -, rfl⟩ | ⟨i, rest, hp, -⟩⟩ := step_next_cases ht
  · exact h.resetEvent rest
  · obtain ⟨-, u, hu, rfl⟩ := poll_cases hr hp ht
    exact hu.inv (h.begin rest) rfl

/-! ## What a poll may write -/

section Writes

variable {s t : State} {i : Input}

/-! ### The configuration registers -/

/-- CFG_VALID and the registers CFG_LINK writes have the same values in both states (10_state.md R31 to R36). -/
def State.SameLink (s t : State) : Prop :=
  t.cfgValid = s.cfgValid ∧ t.baud = s.baud ∧ t.parity = s.parity ∧ t.stop2 = s.stop2 ∧ t.bpc = s.bpc ∧
    t.charTo = s.charTo ∧ t.frameTo = s.frameTo

/-- Every configuration register has the same value in both states (10_state.md R31 to R38). -/
def State.SameConfig (s t : State) : Prop :=
  s.SameLink t ∧ t.respTo = s.respTo ∧ t.txenEn = s.txenEn

theorem FrameEnd.sameConfig (he : FrameEnd s t) : s.SameConfig t := by
  cases he <;> exact ⟨⟨rfl, rfl, rfl, rfl, rfl, rfl, rfl⟩, rfl, rfl⟩

/-- A poll keeps the configuration registers unless it runs a command. -/
theorem PollCase.sameConfig_or_command (hu : PollCase i s t) :
    s.SameConfig t ∨
      ∃ c ins, s.fsm = .idle ∧ i.cmd = some c ∧ decode c = .ok ins ∧ ExecCase ins s t := by
  cases hu with
  | command c ins _ hf hc hd he => exact .inr ⟨c, ins, hf, hc, hd, he⟩
  | frameEnd _ _ _ he => exact .inl he.sameConfig
  | _ => exact .inl ⟨⟨rfl, rfl, rfl, rfl, rfl, rfl, rfl⟩, rfl, rfl⟩

theorem ExecCase.sameLink_or_cfgLink {ins : Instr} (he : ExecCase ins s t) :
    s.SameLink t ∨ ∃ baud parity stop2, ins = .cfgLink baud parity stop2 := by
  cases he with
  | cfgLink b p d hi _ _ => exact .inr ⟨b, p, d, hi⟩
  | _ => exact .inl ⟨rfl, rfl, rfl, rfl, rfl, rfl, rfl⟩

theorem ExecCase.sameRespTo_or_cfgRespTo {ins : Instr} (he : ExecCase ins s t) :
    t.respTo = s.respTo ∨ ins = .cfgRespTo t.respTo := by
  cases he with
  | cfgRespTo v hi => exact .inr hi
  | _ => exact .inl rfl

theorem ExecCase.sameTxenEn_or_cfgTxen {ins : Instr} (he : ExecCase ins s t) :
    t.txenEn = s.txenEn ∨ ins = .cfgTxen t.txenEn := by
  cases he with
  | cfgTxen en hi => exact .inr hi
  | _ => exact .inl rfl

/-! ### STATUS -/

/-- STATUS and O.done from one state to the next: both are left alone, or the step ends in a raise, of a status other
than UNKNOWN_COMM_ERROR (60_exceptions.md R363, R366). -/
def State.KeepsStatusOrRaises (s t : State) : Prop :=
  (t.out.done = s.out.done ∧ t.status = s.status) ∨ ∃ (u : State) (st : Status), st ≠ .unknownCommError ∧ t = u.raise st

theorem FrameEnd.raises (he : FrameEnd s t) : ∃ (u : State) (st : Status), st ≠ .unknownCommError ∧ t = u.raise st := by
  cases he with
  | plain st hst => exact ⟨_, st, hst, rfl⟩
  | exception | bits | regs => exact ⟨_, _, by decide, rfl⟩

theorem ExecCase.keepsStatusOrRaises {ins : Instr} (he : ExecCase ins s t) : s.KeepsStatusOrRaises t := by
  cases he with
  | invalid st _ _ hst => exact .inr ⟨s, st, hst.ne_unknown, rfl⟩
  | cfgLink | cfgRespTo | cfgTxen | clearExc | accepted => exact .inl ⟨rfl, rfl⟩

theorem PollCase.keepsStatusOrRaises (hu : PollCase i s t) : s.KeepsStatusOrRaises t := by
  cases hu with
  | command _ _ _ _ _ _ he => exact he.keepsStatusOrRaises
  | frameEnd _ _ _ he => exact .inr he.raises
  | broadcast | overrun | responseTimeout | lateByte => exact .inr ⟨_, _, by decide, rfl⟩
  | quietIdle | sent | flushing | flushed | byte | waiting | charGap => exact .inl ⟨rfl, rfl⟩

/-! ### EXC -/

theorem ExecCase.exc {ins : Instr} (he : ExecCase ins s t) :
    t.exc = s.exc ∨ (t.exc = none ∧ (t.fsm = .txWrite ∨ ins = .clearExc)) := by
  cases he with
  | clearExc hi => exact .inr ⟨rfl, .inr hi⟩
  | accepted => exact .inr ⟨rfl, .inl rfl⟩
  | cfgLink | cfgRespTo | cfgTxen | invalid => exact .inl rfl

theorem FrameEnd.exc (he : FrameEnd s t) :
    t.exc = s.exc ∨ (t.exc.isSome = true ∧ t.out.done = true ∧ t.status = some .exceptionResponse) := by
  cases he with
  | exception code => exact .inr ⟨rfl, rfl, rfl⟩
  | plain | bits | regs => exact .inl rfl

end Writes

/-- Settles O19: outside a command nothing is configured, and each of the three configuring commands writes its own
registers only. -/
theorem configurationChangesOnlyByItsCommand : Obligations.ConfigurationChangesOnlyByItsCommand := by
  intro s t i rest ⟨hr, hp⟩ ht
  obtain ⟨-, u, hu, rfl⟩ := poll_cases hr hp ht
  obtain ⟨hlink, hresp, htxen⟩ | ⟨c, ins, hf, hc, hd, he⟩ := hu.sameConfig_or_command
  · exact ⟨.inl hlink, .inl hresp, .inl htxen⟩
  · refine ⟨he.sameLink_or_cfgLink.imp_right ?_, he.sameRespTo_or_cfgRespTo.imp_right ?_,
      he.sameTxenEn_or_cfgTxen.imp_right ?_⟩
    · rintro ⟨baud, parity, stop2, rfl⟩
      exact ⟨hf, c, baud, parity, stop2, hc, hd⟩
    · exact fun hi => ⟨hf, c, hc, hd.trans (congrArg _ hi)⟩
    · exact fun hi => ⟨hf, c, hc, hd.trans (congrArg _ hi)⟩

/-- Settles O20: a poll starts with O.done false, and only a raise writes O.done or STATUS. -/
theorem statusIsWrittenExactlyAtTheEnd : Obligations.StatusIsWrittenExactlyAtTheEnd := by
  intro s t i rest ⟨hr, hp⟩ ht
  obtain ⟨-, u, hu, rfl⟩ := poll_cases hr hp ht
  obtain ⟨hdone, hstatus⟩ | ⟨v, st, hst, rfl⟩ := hu.keepsStatusOrRaises
  · exact ⟨fun _ => hstatus, fun hd => nomatch hdone.symm.trans hd⟩
  · exact ⟨nofun, fun _ => ⟨rfl, st, rfl, hst⟩⟩

/-- Settles O22: a command clears EXC or leaves it, the end of a frame captures a code or leaves it, and no other case
of a poll writes it. -/
theorem excChangesOnlyByItsRules : Obligations.ExcChangesOnlyByItsRules := by
  intro s t i rest ⟨hr, hp⟩ ht
  obtain ⟨-, u, hu, rfl⟩ := poll_cases hr hp ht
  cases hu with
  | command c ins _ hf hc hd he =>
    obtain hsame | ⟨hnone, hfsm | rfl⟩ := he.exc
    · exact .inl hsame
    · exact .inr (.inl ⟨hnone, hf, .inl hfsm⟩)
    · exact .inr (.inl ⟨hnone, hf, .inr ⟨c, hc, hd⟩⟩)
  | frameEnd _ hf _ he =>
    obtain hsame | ⟨hsome, hdone, hstatus⟩ := he.exc
    · exact .inl hsame
    · exact .inr (.inr ⟨hsome, hf, hdone, hstatus⟩)
  | _ => exact .inl rfl

/-! ## Which polls run a command -/

/-- In IDLE, a poll that offers a command which decodes is that command's meaning. -/
theorem fsmStep_decoded {s : State} {i : Input} {c : Command} {ins : Instr} (hf : s.fsm = .idle)
    (hc : i.cmd = some c) (hd : decode c = .ok ins) : fsmStep i s = exec ins s := by
  simp [fsmStep, accept, hf, hc, hd]

/-- In IDLE, a poll without a command does nothing. -/
theorem fsmStep_idle_quiet {s : State} {i : Input} (hf : s.fsm = .idle) (hc : i.cmd = none) :
    fsmStep i s = .next s := by
  simp [fsmStep, hf, hc]

/-- Settles O7: the poll is `exec` between the start and the end of a step, and `exec` never faults. -/
theorem stepRunsTheDecodedInstruction : Obligations.StepRunsTheDecodedInstruction := by
  intro s i rest c ins ⟨hr, hp⟩ hf hc hd
  have hf0 : (s.begin rest).fsm = .idle := hf
  have hstep : step s = endStep (exec ins (s.begin rest)) := by
    rw [step_poll hr hp, pollStep_idle i hf0, fsmStep_decoded hf0 hc hd]
  refine ⟨fun t ht => ?_, exec_not_fault ins _, fun r hx => ?_⟩
  · exact hstep.trans (congrArg endStep ht)
  · exact hstep.trans (congrArg endStep hx)

/-- Settles O8: the busy test of a poll comes before anything else. -/
theorem commandWhileBusyIsRefused : Obligations.CommandWhileBusyIsRefused := by
  intro s i rest c ⟨hr, hp⟩ hf hc
  have hf0 : (s.begin rest).fsm ≠ .idle := hf
  rw [step_poll hr hp, pollStep_busy (by simp [hc]) hf0]

/-- Settles O9: the poll only clears the output record and drives TXEN on it. -/
theorem idlePollWithoutCommandChangesNothing : Obligations.IdlePollWithoutCommandChangesNothing := by
  intro s i rest ⟨hr, hp⟩ hf hc
  have hf0 : (s.begin rest).fsm = .idle := hf
  rw [step_poll hr hp, pollStep_quiet _ hc, fsmStep_idle_quiet hf0 hc]
  rfl

theorem State.after_of_refused {s : State} {r : Refusal} (h : step s = .refused r) : s.after = s.markRefused := by
  simp [State.after, h]

/-- Settles O11: a refusal leaves the state marked, and a marked state takes no step. -/
theorem refusedStateTakesNoStep : Obligations.RefusedStateTakesNoStep := by
  refine ⟨fun s hs => step_refusedState hs, fun s r h => ?_⟩
  rw [State.after_of_refused h]
  exact ⟨rfl, step_refusedState rfl⟩

end Sys2Proof.Machine
end

section
/-! SUPPORT. The statements of 20_memory.md about BUF and the output arrays: no step within the invariant uses a value
that is not there or an index out of range, and what BUF holds beyond the exchange in flight is not observable. -/

namespace Sys2Proof.Machine

/-! ## No step faults within the invariant

Each action needs its own part of the invariant. A read of a register or of BUF is `need`: it does not fault where the
invariant says that the value is there. -/

section NoFault

variable {s : State}

/-- The action answers a next state or a refusal. -/
def Result.NoFault (r : Result) : Prop := ∀ f, r ≠ .fault f

theorem Result.NoFault.next (s : State) : Result.NoFault (.next s) := nofun

theorem Result.NoFault.refused (x : Refusal) : Result.NoFault (.refused x) := nofun

theorem Result.NoFault.need {α : Type} {r : Option α} {v : α} {f : Fault} {k : α → Result} (hr : r = some v)
    (hk : (k v).NoFault) : (need r f k).NoFault := by
  subst hr; exact hk

theorem Result.NoFault.ite {c : Prop} [Decidable c] {a b : Result} (ha : c → a.NoFault) (hb : ¬ c → b.NoFault) :
    Result.NoFault (if c then a else b) := by
  split
  · exact ha ‹_›
  · exact hb ‹_›

theorem Result.NoFault.endStep {r : Result} (h : r.NoFault) : (endStep r).NoFault :=
  fun f hf => h f (endStep_eq_fault.1 hf)

/-! ### The response decoders -/

/-- The index test of a read decoder passes for a quantity within the output array (20_memory.md R90). -/
theorem decodeRead_noFault {bc : Nat → Nat} {capn : Nat} {unpack : Nat → List Byte → State → State} (adu : Adu)
    {qty : U16} (hq : s.req.qty = some qty) (hc : qty.toNat ≤ capn) : (decodeRead bc capn unpack adu s).NoFault := by
  refine .need hq ?_
  dsimp only
  split
  · exact .next _
  · exact .ite (fun _ => .next _) fun _ => .ite (fun _ => .next _) fun _ =>
      .ite (fun h => absurd hc (by omega)) fun _ => .next _

theorem decodeSingle_noFault (adu : Adu) {addr val : U16} (ha : s.req.addr = some addr) (hv : s.req.val = some val) :
    (decodeSingle adu s).NoFault := by
  unfold decodeSingle
  split
  · exact .need ha <| .ite (fun _ => .next _) fun _ => .need hv <| .ite (fun _ => .next _) fun _ => .next _
  · exact .next _

theorem decodeMulti_noFault (adu : Adu) {addr qty : U16} (ha : s.req.addr = some addr) (hq : s.req.qty = some qty) :
    (decodeMulti adu s).NoFault := by
  unfold decodeMulti
  split
  · exact .need ha <| .ite (fun _ => .next _) fun _ => .need hq <| .ite (fun _ => .next _) fun _ => .next _
  · exact .next _

theorem Req.Latched.unit_op {r : Req} (h : r.Latched) : ∃ unit op, r.unit = some unit ∧ r.op = some op := by
  obtain ⟨_, _, _, _, rfl, -⟩ | ⟨_, _, _, _, rfl, -⟩ | ⟨_, _, _, _, rfl, -⟩ | ⟨_, _, _, rfl, -⟩ |
    ⟨_, _, _, rfl, -⟩ := h <;> exact ⟨_, _, rfl, rfl⟩

/-- A latched request has a decoder, and the fields which that decoder compares. -/
theorem decodeResponse_noFault (adu : Adu) {op : Byte} (h : s.req.Latched) (ho : s.req.op = some op) :
    (decodeResponse op adu s).NoFault := by
  obtain ⟨op', unit, addr, qty, hr, hop, -, -, -, hq⟩ | ⟨op', unit, addr, qty, hr, hop, -, -, -, hq⟩ |
    ⟨op', unit, addr, val, hr, hop, -⟩ | ⟨unit, addr, qty, hr, -⟩ | ⟨unit, addr, qty, hr, -⟩ := h <;>
    rw [hr] at ho <;> cases ho
  · have hqty := congrArg Req.qty hr
    rcases List.mem_pair.1 hop with rfl | rfl <;> exact decodeRead_noFault adu hqty hq
  · have hqty := congrArg Req.qty hr
    rcases List.mem_pair.1 hop with rfl | rfl <;> exact decodeRead_noFault adu hqty hq
  · have haddr := congrArg Req.addr hr
    have hval := congrArg Req.val hr
    rcases List.mem_pair.1 hop with rfl | rfl <;> exact decodeSingle_noFault adu haddr hval
  · exact decodeMulti_noFault adu (congrArg Req.addr hr) (congrArg Req.qty hr)
  · exact decodeMulti_noFault adu (congrArg Req.addr hr) (congrArg Req.qty hr)

theorem checkResponse_noFault (adu : Adu) (h : s.req.Latched) : (checkResponse adu s).NoFault := by
  obtain ⟨unit, op, hu, ho⟩ := h.unit_op
  refine .need hu <| .ite (fun _ => .next _) fun _ => .need ho <| .ite (fun _ => ?_) fun _ =>
    .ite (fun _ => .next _) fun _ => decodeResponse_noFault adu h ho
  split <;> exact .next _

theorem endOfFrame_noFault (h : s.req.Latched) (hb : s.frameBytes.isSome = true) : (endOfFrame s).NoFault := by
  obtain ⟨bs, hbs⟩ := Option.isSome_iff_exists.1 hb
  rw [endOfFrame_eq hbs]
  cases deframe bs with
  | error e => exact .next _
  | ok adu => exact checkResponse_noFault adu h

/-! ### The actions of the FSM -/

theorem accept_noFault (c : Command) (s : State) : (accept c s).NoFault := by
  unfold accept
  split
  · exact .refused _
  · exact exec_not_fault _ s

theorem txWriteStep_noFault (h : s.HoldsRequest) : (txWriteStep s).NoFault := by
  obtain ⟨_, _, _, -, -, hb, -⟩ := h
  exact .need hb (.next _)

theorem txFlushStep_noFault (i : Input) (h : s.req.Latched) : (txFlushStep i s).NoFault := by
  obtain ⟨unit, -, hu, -⟩ := h.unit_op
  exact .ite (fun _ => .need hu <| .ite (fun _ => .next _) fun _ => .next _) fun _ => .next _

theorem takeByte_noFault (b : Byte) (now : Time) (hl : s.len ≤ Config.frameCap) : (takeByte b now s).NoFault :=
  .ite (fun _ => .next _) fun _ => .ite (fun h => absurd hl (by omega)) fun _ => .next _

theorem awaitStep_noFault (i : Input) (hl : s.len ≤ Config.frameCap) (ht : s.tStart.isSome = true) :
    (awaitStep i s).NoFault := by
  obtain ⟨t0, ht0⟩ := Option.isSome_iff_exists.1 ht
  unfold awaitStep
  split
  · exact takeByte_noFault _ _ hl
  · exact .need ht0 <| .ite (fun _ => .next _) fun _ => .next _

theorem accumStep_noFault (i : Input) {ct : TimeReg} (hl : s.len ≤ Config.frameCap) (ht : s.tLast.isSome = true)
    (hc : s.charTo = some ct) : (accumStep i s).NoFault := by
  obtain ⟨t0, ht0⟩ := Option.isSome_iff_exists.1 ht
  unfold accumStep
  split
  · exact takeByte_noFault _ _ hl
  · exact .need ht0 <| .need hc <| .ite (fun _ => .next _) fun _ => .next _

theorem confirmAppendStep_noFault (i : Input) {ft : TimeReg} (hl : s.len ≤ Config.frameCap)
    (ht : s.tLast.isSome = true) (hf : s.frameTo = some ft) (hq : s.req.Latched) (hb : s.frameBytes.isSome = true) :
    (confirmAppendStep i s).NoFault := by
  obtain ⟨t0, ht0⟩ := Option.isSome_iff_exists.1 ht
  refine .need ht0 <| .need hf <| .ite (fun _ => ?_) fun _ => ?_
  · split
    · exact .next _
    · exact endOfFrame_noFault hq hb
  · split
    · exact takeByte_noFault _ _ hl
    · exact .next _

/-- An exchange in flight has its two thresholds, since it is on a configured link. -/
theorem State.Inv.thresholds (h : s.Inv) (hf : s.fsm ≠ .idle) : ∃ ct ft, s.charTo = some ct ∧ s.frameTo = some ft := by
  obtain ⟨_, _, _, -, -, -, -, -, -, hc, hft⟩ := h.linkSet (h.busyConfigured hf)
  exact ⟨_, _, hc, hft⟩

/-- Within the invariant every FSM state has what its action uses. The output record, cleared at the start of a poll,
is no part of it, so the invariant is asked of the state with TXEN driven. -/
theorem fsmStep_noFault (i : Input) (h : s.driveTxen.Inv) : (fsmStep i s).NoFault := by
  have busy {f : Fsm} (hf : s.fsm = f) (hne : f ≠ .idle) : s.fsm ≠ .idle := hf ▸ hne
  unfold fsmStep
  cases hf : s.fsm with
  | idle =>
    dsimp only
    split
    · exact accept_noFault _ s
    · exact .next s
  | txWrite => exact txWriteStep_noFault (h.request (.inl hf))
  | txFlush => exact txFlushStep_noFault i (h.latched (busy hf nofun))
  | await => exact awaitStep_noFault i h.lenBound (h.awaiting hf).2
  | accum =>
    obtain ⟨ct, _, hct, -⟩ := h.thresholds (busy hf nofun)
    exact accumStep_noFault i h.lenBound (h.accumulating (.inl hf)).2 hct
  | confirm =>
    obtain ⟨_, ft, -, hft⟩ := h.thresholds (busy hf nofun)
    exact confirmAppendStep_noFault i h.lenBound (h.accumulating (.inr hf)).2 hft (h.latched (busy hf nofun))
      (h.received (.inr (.inr hf)))

theorem pollStep_noFault (i : Input) (h : s.driveTxen.Inv) : (pollStep i s).NoFault :=
  .ite (fun _ => .refused _) fun _ => (fsmStep_noFault i h).endStep

end NoFault

/-- Settles O14: a reset event answers next, and the invariant at the start of a poll gives its action what it uses. -/
theorem noStepFaultsWithinTheInvariant : Obligations.NoStepFaultsWithinTheInvariant := by
  intro s f h hp
  match hs : s.pending with
  | [] => exact absurd hs hp
  | .reset :: rest =>
    rw [step_reset h.notRefused hs]
    exact Result.NoFault.next _ f
  | .poll i :: rest =>
    rw [step_poll h.notRefused hs]
    exact pollStep_noFault i (h.begin rest) f

/-! ## BUF is internal

A simulation. Two states that agree but for BUF have the same registers, each operation takes such states to such
states, and an action that only compares registers and inputs takes the same branch in both. -/

section SameButBuf

variable {s t : State}

/-! ### The registers agree -/

theorem State.SameButBuf.fsm (h : s.SameButBuf t) : t.fsm = s.fsm := by rw [h.rest]
theorem State.SameButBuf.busy (h : s.SameButBuf t) : t.busy = s.busy := by rw [State.busy, h.fsm]; rfl
theorem State.SameButBuf.cfgValid (h : s.SameButBuf t) : t.cfgValid = s.cfgValid := by rw [h.rest]
theorem State.SameButBuf.charTo (h : s.SameButBuf t) : t.charTo = s.charTo := by rw [h.rest]
theorem State.SameButBuf.frameTo (h : s.SameButBuf t) : t.frameTo = s.frameTo := by rw [h.rest]
theorem State.SameButBuf.respTo (h : s.SameButBuf t) : t.respTo = s.respTo := by rw [h.rest]
theorem State.SameButBuf.req (h : s.SameButBuf t) : t.req = s.req := by rw [h.rest]
theorem State.SameButBuf.len (h : s.SameButBuf t) : t.len = s.len := by rw [h.rest]
theorem State.SameButBuf.tStart (h : s.SameButBuf t) : t.tStart = s.tStart := by rw [h.rest]
theorem State.SameButBuf.tLast (h : s.SameButBuf t) : t.tLast = s.tLast := by rw [h.rest]
theorem State.SameButBuf.refused (h : s.SameButBuf t) : t.refused = s.refused := by rw [h.rest]
theorem State.SameButBuf.pending (h : s.SameButBuf t) : t.pending = s.pending := by rw [h.rest]

/-- The frame of an exchange in flight is the same in both. -/
theorem State.SameButBuf.frameBytes (h : s.SameButBuf t) (hf : s.fsm ≠ .idle) : t.frameBytes = s.frameBytes := by
  rw [State.frameBytes, h.len]
  exact Cells.load_congr fun a _ ha => h.live hf a (by omega)

/-! ### The operations keep the agreement -/

theorem State.SameButBuf.begin (h : s.SameButBuf t) (rest : List Event) : (s.begin rest).SameButBuf (t.begin rest) :=
  ⟨congrArg (State.begin rest) h.rest, h.live⟩

theorem State.SameButBuf.driveTxen (h : s.SameButBuf t) : s.driveTxen.SameButBuf t.driveTxen :=
  ⟨congrArg State.driveTxen h.rest, h.live⟩

theorem State.SameButBuf.resetEvent (h : s.SameButBuf t) (rest : List Event) :
    (s.resetEvent rest).SameButBuf (t.resetEvent rest) :=
  ⟨by rw [h.rest]; rfl, fun hf => absurd rfl hf⟩

theorem State.SameButBuf.raise (h : s.SameButBuf t) (st : Status) : (s.raise st).SameButBuf (t.raise st) :=
  ⟨congrArg (State.raise st) h.rest, fun hf => absurd rfl hf⟩

theorem State.SameButBuf.setLink (h : s.SameButBuf t) (b : TimeReg) (p : BitVec 2) (d : Bool) :
    (s.setLink b p d).SameButBuf (t.setLink b p d) :=
  ⟨congrArg (State.setLink b p d) h.rest, h.live⟩

theorem State.SameButBuf.setRespTo (h : s.SameButBuf t) (v : TimeReg) : (s.setRespTo v).SameButBuf (t.setRespTo v) :=
  ⟨congrArg (State.setRespTo v) h.rest, h.live⟩

theorem State.SameButBuf.setTxenEn (h : s.SameButBuf t) (en : Bool) : (s.setTxenEn en).SameButBuf (t.setTxenEn en) :=
  ⟨congrArg (State.setTxenEn en) h.rest, h.live⟩

theorem State.SameButBuf.clearExc (h : s.SameButBuf t) : s.clearExc.SameButBuf t.clearExc :=
  ⟨congrArg State.clearExc h.rest, h.live⟩

/-- An accepted exchange writes its whole frame, so BUF[0 .. LEN) agrees whatever BUF held before. -/
theorem State.SameButBuf.beginExchange (h : s.SameButBuf t) (q : Req) (bs : List Byte) :
    (s.beginExchange q bs).SameButBuf (t.beginExchange q bs) where
  rest := congrArg (State.beginExchange q bs) h.rest
  live _ a ha := by
    have ha : a < 0 + (withCrc bs).length := by simpa using ha
    simp only [State.beginExchange_buf, Cells.get_store_mem (Nat.zero_le a) ha]

theorem State.SameButBuf.sendFrame (h : s.SameButBuf t) (hf : s.fsm ≠ .idle) (bs : List Byte) :
    (s.sendFrame bs).SameButBuf (t.sendFrame bs) :=
  ⟨congrArg (State.sendFrame bs) h.rest, fun _ => h.live hf⟩

theorem State.SameButBuf.releaseTxen (h : s.SameButBuf t) : s.releaseTxen.SameButBuf t.releaseTxen :=
  ⟨congrArg State.releaseTxen h.rest, h.live⟩

theorem State.SameButBuf.startAwait (h : s.SameButBuf t) (now : Time) :
    (s.startAwait now).SameButBuf (t.startAwait now) :=
  ⟨congrArg (State.startAwait now) h.rest, fun _ a ha => absurd ha (Nat.not_lt_zero a)⟩

theorem State.SameButBuf.takeRx (h : s.SameButBuf t) : s.takeRx.SameButBuf t.takeRx :=
  ⟨congrArg State.takeRx h.rest, h.live⟩

/-- A received byte goes to the same index of both, and extends the bytes that agree by one. -/
theorem State.SameButBuf.storeRx (h : s.SameButBuf t) (hf : s.fsm ≠ .idle) (b : Byte) (now : Time) :
    (s.storeRx b now).SameButBuf (t.storeRx b now) where
  rest := by rw [h.rest]; rfl
  live _ a ha := by
    have ha : a < s.len + 1 := ha
    simp only [State.storeRx_buf, h.len, Cells.get_set]
    split
    · rfl
    · exact h.live hf a (by omega)

theorem State.SameButBuf.toConfirm (h : s.SameButBuf t) (hf : s.fsm ≠ .idle) : s.toConfirm.SameButBuf t.toConfirm :=
  ⟨congrArg State.toConfirm h.rest, fun _ => h.live hf⟩

theorem State.SameButBuf.captureExc (h : s.SameButBuf t) (code : Byte) :
    (s.captureExc code).SameButBuf (t.captureExc code) :=
  ⟨congrArg (State.captureExc code) h.rest, h.live⟩

theorem State.SameButBuf.unpackBits (h : s.SameButBuf t) (n : Nat) (bs : List Byte) :
    (s.unpackBits n bs).SameButBuf (t.unpackBits n bs) :=
  ⟨congrArg (State.unpackBits n bs) h.rest, h.live⟩

theorem State.SameButBuf.unpackRegs (h : s.SameButBuf t) (n : Nat) (bs : List Byte) :
    (s.unpackRegs n bs).SameButBuf (t.unpackRegs n bs) :=
  ⟨congrArg (State.unpackRegs n bs) h.rest, h.live⟩

/-! ### Results that end alike -/

theorem Result.SameButBuf.fault (f : Fault) : Result.SameButBuf (.fault f) (.fault f) := rfl

theorem Result.SameButBuf.refused (x : Refusal) : Result.SameButBuf (.refused x) (.refused x) := rfl

theorem Result.SameButBuf.need {α : Type} {r r' : Option α} {f : Fault} {k k' : α → Result} (hr : r' = r)
    (hk : ∀ v, Result.SameButBuf (k v) (k' v)) : Result.SameButBuf (need r f k) (need r' f k') := by
  subst hr
  cases r' with
  | none => exact .fault f
  | some v => exact hk v

theorem Result.SameButBuf.ite {c : Prop} [Decidable c] {a a' b b' : Result} (ha : Result.SameButBuf a a')
    (hb : Result.SameButBuf b b') : Result.SameButBuf (if c then a else b) (if c then a' else b') := by
  split
  · exact ha
  · exact hb

theorem Result.SameButBuf.endStep {r q : Result} (h : Result.SameButBuf r q) :
    Result.SameButBuf (endStep r) (endStep q) := by
  cases r with
  | next s =>
    cases q with
    | next t => exact State.SameButBuf.driveTxen h
    | fault | refused => exact h.elim
  | fault f =>
    cases q with
    | fault g => exact h
    | next | refused => exact h.elim
  | refused x =>
    cases q with
    | refused y => exact h
    | next | fault => exact h.elim

/-! ### The commands -/

theorem acceptExchange_sameButBuf (h : s.SameButBuf t) (inv : Option Status) (q : Req) (bs : List Byte) :
    Result.SameButBuf (acceptExchange inv q bs s) (acceptExchange inv q bs t) := by
  unfold acceptExchange whenConfigured
  rw [h.cfgValid]
  refine .ite ?_ (.refused _)
  cases inv with
  | none => exact h.beginExchange q bs
  | some st => exact h.raise st

theorem exec_sameButBuf (h : s.SameButBuf t) (i : Instr) : Result.SameButBuf (exec i s) (exec i t) := by
  cases i with
  | readCoils | readDi | readHr | readIr | writeCoil | writeReg => exact acceptExchange_sameButBuf h _ _ _
  | writeCoils | writeRegs => exact .ite (acceptExchange_sameButBuf h _ _ _) (.refused _)
  | cfgLink b p d => exact .ite (.refused _) (.ite (.refused _) (h.setLink b p d))
  | cfgRespTo v => exact h.setRespTo v
  | cfgTxen en => exact h.setTxenEn en
  | clearExc => exact h.clearExc

theorem accept_sameButBuf (h : s.SameButBuf t) (c : Command) : Result.SameButBuf (accept c s) (accept c t) := by
  unfold accept
  cases decode c with
  | error e => exact .refused _
  | ok i => exact exec_sameButBuf h i

/-! ### The end of a frame -/

theorem decodeRead_sameButBuf (h : s.SameButBuf t) (bc : Nat → Nat) (capn : Nat)
    {unpack : Nat → List Byte → State → State} (hu : ∀ n bs, (unpack n bs s).SameButBuf (unpack n bs t)) (adu : Adu) :
    Result.SameButBuf (decodeRead bc capn unpack adu s) (decodeRead bc capn unpack adu t) := by
  refine .need (congrArg Req.qty h.req) fun qty => ?_
  cases adu.data with
  | nil => exact h.raise _
  | cons declared payload =>
    exact .ite (h.raise _) <| .ite (h.raise _) <| .ite (.fault _) <| (hu _ _).raise _

theorem decodeSingle_sameButBuf (h : s.SameButBuf t) (adu : Adu) :
    Result.SameButBuf (decodeSingle adu s) (decodeSingle adu t) := by
  unfold decodeSingle
  split
  · exact .need (congrArg Req.addr h.req) fun _ => .ite (h.raise _) <|
      .need (congrArg Req.val h.req) fun _ => .ite (h.raise _) (h.raise _)
  · exact h.raise _

theorem decodeMulti_sameButBuf (h : s.SameButBuf t) (adu : Adu) :
    Result.SameButBuf (decodeMulti adu s) (decodeMulti adu t) := by
  unfold decodeMulti
  split
  · exact .need (congrArg Req.addr h.req) fun _ => .ite (h.raise _) <|
      .need (congrArg Req.qty h.req) fun _ => .ite (h.raise _) (h.raise _)
  · exact h.raise _

theorem decodeResponse_sameButBuf (h : s.SameButBuf t) (op : Byte) (adu : Adu) :
    Result.SameButBuf (decodeResponse op adu s) (decodeResponse op adu t) := by
  unfold decodeResponse
  cases Op.ofByte? op with
  | none => exact .fault _
  | some o =>
    cases o with
    | readCoils | readDi => exact decodeRead_sameButBuf h _ _ h.unpackBits adu
    | readHr | readIr => exact decodeRead_sameButBuf h _ _ h.unpackRegs adu
    | writeCoil | writeReg => exact decodeSingle_sameButBuf h adu
    | writeCoils | writeRegs => exact decodeMulti_sameButBuf h adu
    | cfgLink | cfgRespTo | cfgTxen | clearExc => exact .fault _

theorem checkResponse_sameButBuf (h : s.SameButBuf t) (adu : Adu) :
    Result.SameButBuf (checkResponse adu s) (checkResponse adu t) := by
  refine .need (congrArg Req.unit h.req) fun _ => .ite (h.raise _) <| .need (congrArg Req.op h.req) fun op =>
    .ite ?_ <| .ite (h.raise _) (decodeResponse_sameButBuf h op adu)
  cases adu.data with
  | nil => exact h.raise _
  | cons code _ => exact (h.captureExc code).raise _

theorem endOfFrame_sameButBuf (h : s.SameButBuf t) (hf : s.fsm ≠ .idle) :
    Result.SameButBuf (endOfFrame s) (endOfFrame t) := by
  unfold endOfFrame
  rw [h.len]
  refine .ite (h.raise _) <| .need (h.frameBytes hf) fun bs => ?_
  cases deframe bs with
  | error e => exact h.raise e.status
  | ok adu => exact checkResponse_sameButBuf h adu

/-! ### The actions of the FSM -/

theorem txWriteStep_sameButBuf (h : s.SameButBuf t) (hf : s.fsm ≠ .idle) :
    Result.SameButBuf (txWriteStep s) (txWriteStep t) :=
  .need (h.frameBytes hf) fun bs => h.sendFrame hf bs

theorem txFlushStep_sameButBuf (h : s.SameButBuf t) (i : Input) :
    Result.SameButBuf (txFlushStep i s) (txFlushStep i t) :=
  .ite (.need (congrArg Req.unit h.req) fun _ => .ite (h.releaseTxen.raise _) (h.releaseTxen.startAwait i.now)) h

theorem takeByte_sameButBuf (h : s.SameButBuf t) (hf : s.fsm ≠ .idle) (b : Byte) (now : Time) :
    Result.SameButBuf (takeByte b now s) (takeByte b now t) := by
  unfold takeByte
  rw [h.len]
  exact .ite (h.takeRx.raise _) <| .ite (.fault _) (h.takeRx.storeRx hf b now)

theorem awaitStep_sameButBuf (h : s.SameButBuf t) (hf : s.fsm ≠ .idle) (i : Input) :
    Result.SameButBuf (awaitStep i s) (awaitStep i t) := by
  unfold awaitStep
  cases i.rx with
  | some b => exact takeByte_sameButBuf h hf b i.now
  | none =>
    rw [h.respTo]
    exact .need h.tStart fun _ => .ite (h.raise _) h

theorem accumStep_sameButBuf (h : s.SameButBuf t) (hf : s.fsm ≠ .idle) (i : Input) :
    Result.SameButBuf (accumStep i s) (accumStep i t) := by
  unfold accumStep
  cases i.rx with
  | some b => exact takeByte_sameButBuf h hf b i.now
  | none => exact .need h.tLast fun _ => .need h.charTo fun _ => .ite (h.toConfirm hf) h

theorem confirmAppendStep_sameButBuf (h : s.SameButBuf t) (hf : s.fsm ≠ .idle) (i : Input) :
    Result.SameButBuf (confirmAppendStep i s) (confirmAppendStep i t) := by
  refine .need h.tLast fun _ => .need h.frameTo fun _ => ?_
  cases i.rx with
  | some b => exact .ite (h.raise _) (takeByte_sameButBuf h hf b i.now)
  | none => exact .ite (endOfFrame_sameButBuf h hf) h

theorem fsmStep_sameButBuf (h : s.SameButBuf t) (i : Input) : Result.SameButBuf (fsmStep i s) (fsmStep i t) := by
  have busy {f : Fsm} (hf : s.fsm = f) (hne : f ≠ .idle) : s.fsm ≠ .idle := hf ▸ hne
  unfold fsmStep
  rw [h.fsm]
  cases hf : s.fsm with
  | idle =>
    cases i.cmd with
    | some c => exact accept_sameButBuf h c
    | none => exact h
  | txWrite => exact txWriteStep_sameButBuf h (busy hf nofun)
  | txFlush => exact txFlushStep_sameButBuf h i
  | await => exact awaitStep_sameButBuf h (busy hf nofun) i
  | accum => exact accumStep_sameButBuf h (busy hf nofun) i
  | confirm => exact confirmAppendStep_sameButBuf h (busy hf nofun) i

theorem pollStep_sameButBuf (h : s.SameButBuf t) (i : Input) : Result.SameButBuf (pollStep i s) (pollStep i t) := by
  unfold pollStep
  rw [h.busy]
  exact .ite (.refused _) (fsmStep_sameButBuf h i).endStep

end SameButBuf

/-- Settles O23: both states take the same event, a reset forgets BUF, and a poll reads of BUF only the frame of the
exchange in flight. -/
theorem bufferContentsAreNotObservable : Obligations.BufferContentsAreNotObservable := by
  intro s t h
  cases hr : s.refused with
  | true =>
    rw [step_refusedState hr, step_refusedState (h.refused.trans hr)]
    exact .fault _
  | false =>
    have hr' := h.refused.trans hr
    match hp : s.pending with
    | [] =>
      rw [step_noInput hr hp, step_noInput hr' (h.pending.trans hp)]
      exact .fault _
    | .reset :: rest =>
      rw [step_reset hr hp, step_reset hr' (h.pending.trans hp)]
      exact h.resetEvent rest
    | .poll i :: rest =>
      rw [step_poll hr hp, step_poll hr' (h.pending.trans hp)]
      exact pollStep_sameButBuf (h.begin rest) i

end Sys2Proof.Machine
end

section
/-! SUPPORT. The statements of 30_encoding.md: the encoder and the decoder undo each other, the four checks of a command
in their order, the commands the assembler gives, and the numbers of STATUS and FSM. -/

namespace Sys2Proof

/-! ## The operations and their formats -/

theorem Op.byte_inj {o p : Op} : o.byte = p.byte ↔ o = p :=
  ⟨fun h => Option.some.inj <| by rw [← Op.ofByte?_byte o, h, Op.ofByte?_byte], congrArg Op.byte⟩

theorem Op.mem_all (op : Op) : op ∈ Op.all := by cases op <;> decide

/-- How many low bits of the word the format of an operation uses; the reserved bits are those above
(30_encoding.md R112 to R119). -/
def Op.usedBits : Op → Nat
  | .readCoils | .readDi | .readHr | .readIr | .writeCoils | .writeRegs => 64
  | .writeCoil => 33
  | .writeReg => 48
  | .cfgLink => 43
  | .cfgRespTo => 40
  | .cfgTxen => 9
  | .clearExc => 8

theorem Op.reserved_getLsbD_eq (op : Op) : ∀ k : Fin 64, op.reserved.getLsbD k = decide (op.usedBits ≤ k.val) := by
  cases op <;> decide

/-- Check 2 of 30_encoding.md R120: the reserved bits are 0 when no bit above the format's fields is set. -/
theorem and_reserved_eq_zero {op : Op} {w : Word} :
    w &&& op.reserved = 0#64 ↔ ∀ k, op.usedBits ≤ k → w.getLsbD k = false :=
  reserved_zero_iff op.reserved_getLsbD_eq

/-! ## The command of an instruction -/

/-- W[7:0] of the command of an instruction is its OP value (30_encoding.md R110). -/
theorem opField_encodeWord (i : Instr) : opField (encodeWord i) = i.op.byte := by
  cases i <;> exact Laws.OpField.low_byte _ _

/-- The encoder writes 0 in every reserved bit of the format. -/
theorem encodeWord_and_reserved (i : Instr) : encodeWord i &&& i.op.reserved = 0#64 := by
  refine and_reserved_eq_zero.2 fun k hk => ?_
  cases i with
  | readCoils | readDi | readHr | readIr | writeCoils | writeRegs => exact BitVec.getLsbD_of_ge _ _ hk
  | writeCoil unit addr coil =>
    have hk : 33 ≤ k := hk
    rw [encodeWord_writeCoil_getLsbD, if_neg (by omega), if_neg (by omega), if_neg (by omega),
      decide_eq_false (by omega), Bool.false_and]
  | writeReg unit addr value =>
    have hk : 48 ≤ k := hk
    rw [encodeWord_writeReg_getLsbD, if_neg (by omega), if_neg (by omega), if_neg (by omega)]
    exact BitVec.getLsbD_of_ge _ _ (by omega)
  | cfgLink baud parity stop2 =>
    have hk : 43 ≤ k := hk
    rw [encodeWord_cfgLink_getLsbD, if_neg (by omega), if_neg (by omega), if_neg (by omega),
      decide_eq_false (by omega), Bool.false_and]
  | cfgRespTo resp =>
    have hk : 40 ≤ k := hk
    rw [encodeWord_cfgRespTo_getLsbD, if_neg (by omega)]
    exact BitVec.getLsbD_of_ge _ _ (Nat.le_sub_of_add_le hk)
  | cfgTxen en =>
    have hk : 9 ≤ k := hk
    rw [encodeWord_cfgTxen_getLsbD, if_neg (by omega), decide_eq_false (by omega), Bool.false_and]
  | clearExc =>
    have hk : 8 ≤ k := hk
    exact BitVec.getLsbD_append.trans (by rw [if_neg (by omega), BitVec.getLsbD_zero])

/-- The fields of the command of a well-formed instruction are its operands, and its WDATA passes checks 3 and 4 of
30_encoding.md R120. -/
theorem assemble_encode {i : Instr} (h : wellFormed i = true) :
    i.op.assemble (encodeWord i) (encodeWData i) = .ok i := by
  cases i with
  | readCoils | readDi | readHr | readIr =>
    simp [Instr.op, Op.assemble, encodeWord, encodeWData, withoutWData, wordQty_fields]
  | writeCoil => simp [Instr.op, Op.assemble, encodeWData, withoutWData, writeCoil_fields]
  | writeReg => simp [Instr.op, Op.assemble, encodeWData, withoutWData, writeReg_fields]
  | writeCoils _ _ _ cap data | writeRegs _ _ _ cap data =>
    have hfits : wdataFits cap data = true := h
    simp [Instr.op, Op.assemble, encodeWord, encodeWData, wordQty_fields, hfits]
  | cfgLink _ parity _ =>
    have hparity : parityReserved parity = false := by simpa [wellFormed] using h
    simp [Instr.op, Op.assemble, encodeWData, cfgLink_fields, hparity]
  | cfgRespTo => simp [Instr.op, Op.assemble, encodeWData, withoutWData, cfgRespTo_field]
  | cfgTxen => simp [Instr.op, Op.assemble, encodeWData, withoutWData, cfgTxen_field]
  | clearExc => rfl

/-- Settles O1: the operation byte names the operation, the reserved bits are 0, and each field is its operand. -/
theorem encodedInstructionDecodesToItself : Obligations.EncodedInstructionDecodesToItself := by
  intro i h
  have hop : Op.ofByte? (opField (encode i).word) = some i.op :=
    (congrArg Op.ofByte? (opField_encodeWord i)).trans (Op.ofByte?_byte i.op)
  exact (decode_of_op hop (encodeWord_and_reserved i)).trans (assemble_encode h)

/-! ## The word of a decoded command

A word is its fields put together from bit 0 up, the reserved bits being a field that is 0. -/

section Words

variable {w : Word}

/-- A field of one bit. -/
theorem field_one (a : Nat) : w.extractLsb' a 1 = BitVec.ofBool (w.getLsbD a) := by
  ext k hk
  obtain rfl : k = 0 := by omega
  simp

/-- The reserved bits of a format as a field. -/
theorem reserved_field {op : Op} (hr : w &&& op.reserved = 0#64) (n : Nat) :
    w.extractLsb' op.usedBits n = 0#n :=
  field_eq fun k _ => by rw [and_reserved_eq_zero.1 hr _ (Nat.le_add_right _ k), BitVec.getLsbD_zero]

/-- Format X-READ and X-MULTI (30_encoding.md R112, R115). -/
theorem wordQty_of_fields {op : Op} (h : opField w = op.byte) :
    wordQty op (unitField w) (addrField w) (qtyField w) (capField w) = w := by
  rw [wordQty, ← h, capField, qtyField, addrField, unitField, opField]
  iterate 4 rw [BitVec.extractLsb'_append_extractLsb'_eq_extractLsb' (by rfl)]
  exact BitVec.extractLsb'_eq_self

/-- Format X-COIL (30_encoding.md R113). -/
theorem writeCoil_of_fields (h : opField w = Op.writeCoil.byte) (hr : w &&& Op.writeCoil.reserved = 0#64) :
    encodeWord (.writeCoil (unitField w) (addrField w) (coilField w)) = w := by
  rw [encodeWord, ← h, ← reserved_field hr, coilField, ← field_one, addrField, unitField, opField]
  iterate 4 rw [BitVec.extractLsb'_append_extractLsb'_eq_extractLsb' (by rfl)]
  exact BitVec.extractLsb'_eq_self

/-- Format X-REG (30_encoding.md R114). -/
theorem writeReg_of_fields (h : opField w = Op.writeReg.byte) (hr : w &&& Op.writeReg.reserved = 0#64) :
    encodeWord (.writeReg (unitField w) (addrField w) (valueField w)) = w := by
  rw [encodeWord, ← h, ← reserved_field hr, valueField, addrField, unitField, opField]
  iterate 4 rw [BitVec.extractLsb'_append_extractLsb'_eq_extractLsb' (by rfl)]
  exact BitVec.extractLsb'_eq_self

/-- Format C-LINK (30_encoding.md R116). -/
theorem cfgLink_of_fields (h : opField w = Op.cfgLink.byte) (hr : w &&& Op.cfgLink.reserved = 0#64) :
    encodeWord (.cfgLink (baudField w) (parityField w) (stop2Field w)) = w := by
  rw [encodeWord, ← h, ← reserved_field hr, stop2Field, ← field_one, parityField, baudField, opField]
  iterate 4 rw [BitVec.extractLsb'_append_extractLsb'_eq_extractLsb' (by rfl)]
  exact BitVec.extractLsb'_eq_self

/-- Format C-RESP (30_encoding.md R117). -/
theorem cfgRespTo_of_field (h : opField w = Op.cfgRespTo.byte) (hr : w &&& Op.cfgRespTo.reserved = 0#64) :
    encodeWord (.cfgRespTo (respField w)) = w := by
  rw [encodeWord, ← h, ← reserved_field hr, respField, opField]
  iterate 2 rw [BitVec.extractLsb'_append_extractLsb'_eq_extractLsb' (by rfl)]
  exact BitVec.extractLsb'_eq_self

/-- Format C-TXEN (30_encoding.md R118). -/
theorem cfgTxen_of_field (h : opField w = Op.cfgTxen.byte) (hr : w &&& Op.cfgTxen.reserved = 0#64) :
    encodeWord (.cfgTxen (enField w)) = w := by
  rw [encodeWord, ← h, ← reserved_field hr, enField, ← field_one, opField]
  iterate 2 rw [BitVec.extractLsb'_append_extractLsb'_eq_extractLsb' (by rfl)]
  exact BitVec.extractLsb'_eq_self

/-- Format C-NONE (30_encoding.md R119). -/
theorem clearExc_of_op (h : opField w = Op.clearExc.byte) (hr : w &&& Op.clearExc.reserved = 0#64) :
    encodeWord .clearExc = w := by
  rw [encodeWord, ← h, ← reserved_field hr, opField,
    BitVec.extractLsb'_append_extractLsb'_eq_extractLsb' (by rfl)]
  exact BitVec.extractLsb'_eq_self

end Words

/-! ## Checks 3 and 4: what the decoder makes of WDATA and PARITY -/

theorem wdataFits_iff {α : Type} {cap : U16} {data : List α} : wdataFits cap data = true ↔ data.length = cap.toNat := by
  simp [wdataFits]

theorem parityReserved_iff {parity : BitVec 2} : parityReserved parity = true ↔ parity = 3#2 := by
  simp [parityReserved]

/-- WRITE_COILS takes a bit sequence of length CAP and nothing else (30_encoding.md R115). -/
theorem assemble_writeCoils_ok {w : Word} {wd : WData} {i : Instr} :
    Op.writeCoils.assemble w wd = .ok i ↔ ∃ s, wd = .bits s ∧ wdataFits (capField w) s = true ∧
      i = .writeCoils (unitField w) (addrField w) (qtyField w) (capField w) s := by
  cases wd with
  | none | regs => simp [Op.assemble]
  | bits s => cases hs : wdataFits (capField w) s <;> simp [Op.assemble, hs, eq_comm (a := i)]

/-- WRITE_REGS takes a register sequence of length CAP and nothing else (30_encoding.md R115). -/
theorem assemble_writeRegs_ok {w : Word} {wd : WData} {i : Instr} :
    Op.writeRegs.assemble w wd = .ok i ↔ ∃ s, wd = .regs s ∧ wdataFits (capField w) s = true ∧
      i = .writeRegs (unitField w) (addrField w) (qtyField w) (capField w) s := by
  cases wd with
  | none | bits => simp [Op.assemble]
  | regs s => cases hs : wdataFits (capField w) s <;> simp [Op.assemble, hs, eq_comm (a := i)]

/-- CFG_LINK takes no WDATA and no PARITY of 3 (30_encoding.md R116). -/
theorem assemble_cfgLink_ok {w : Word} {wd : WData} {i : Instr} :
    Op.cfgLink.assemble w wd = .ok i ↔ wd = .none ∧ parityReserved (parityField w) = false ∧
      i = .cfgLink (baudField w) (parityField w) (stop2Field w) := by
  cases wd with
  | bits | regs => simp [Op.assemble]
  | none => cases hp : parityReserved (parityField w) <;> simp [Op.assemble, hp, eq_comm (a := i)]

theorem encode_eq {i : Instr} {w : Word} (h : encodeWord i = w) : encode i = ⟨w, encodeWData i⟩ := by
  rw [encode, h]

/-- What the decoder assembles from a word that passes checks 1 and 2 is well-formed, and its command is the word with
its WDATA. -/
theorem encode_of_assemble {op : Op} {w : Word} {wd : WData} {i : Instr} (hop : opField w = op.byte)
    (hr : w &&& op.reserved = 0#64) (h : op.assemble w wd = .ok i) : wellFormed i = true ∧ encode i = ⟨w, wd⟩ := by
  cases op with
  | readCoils | readDi | readHr | readIr =>
    obtain ⟨rfl, rfl⟩ := withoutWData_ok.1 h
    exact ⟨rfl, encode_eq (wordQty_of_fields hop)⟩
  | writeCoil =>
    obtain ⟨rfl, rfl⟩ := withoutWData_ok.1 h
    exact ⟨rfl, encode_eq (writeCoil_of_fields hop hr)⟩
  | writeReg =>
    obtain ⟨rfl, rfl⟩ := withoutWData_ok.1 h
    exact ⟨rfl, encode_eq (writeReg_of_fields hop hr)⟩
  | writeCoils =>
    obtain ⟨s, rfl, hs, rfl⟩ := assemble_writeCoils_ok.1 h
    exact ⟨hs, encode_eq (wordQty_of_fields hop)⟩
  | writeRegs =>
    obtain ⟨s, rfl, hs, rfl⟩ := assemble_writeRegs_ok.1 h
    exact ⟨hs, encode_eq (wordQty_of_fields hop)⟩
  | cfgLink =>
    obtain ⟨rfl, hp, rfl⟩ := assemble_cfgLink_ok.1 h
    exact ⟨congrArg not hp, encode_eq (cfgLink_of_fields hop hr)⟩
  | cfgRespTo =>
    obtain ⟨rfl, rfl⟩ := withoutWData_ok.1 h
    exact ⟨rfl, encode_eq (cfgRespTo_of_field hop hr)⟩
  | cfgTxen =>
    obtain ⟨rfl, rfl⟩ := withoutWData_ok.1 h
    exact ⟨rfl, encode_eq (cfgTxen_of_field hop hr)⟩
  | clearExc =>
    obtain ⟨rfl, rfl⟩ := withoutWData_ok.1 h
    exact ⟨rfl, encode_eq (clearExc_of_op hop hr)⟩

/-- Settles O2: the fields of a format and its reserved bits are together the whole word. -/
theorem decodedCommandIsTheEncodingOfItsInstruction : Obligations.DecodedCommandIsTheEncodingOfItsInstruction := by
  intro c i h
  obtain ⟨op, hop, hr, ha⟩ := decode_ok h
  exact encode_of_assemble (Op.byte_of_ofByte? hop).symm hr ha

end Sys2Proof

namespace Sys2Proof.Machine

/-! ## The four checks in their order -/

section Checks

variable {c : Command} {op : Op}

/-- The listed formats are those of the decoder. -/
theorem commandFormats_eq : commandFormats = Op.all.map fun op => (op.byte, op.reserved) := rfl

/-- A byte that is no listed OP value names no operation. -/
theorem ofByte?_eq_none {b : Byte} (h : b ∉ commandFormats.map Prod.fst) : Op.ofByte? b = none := by
  refine Option.eq_none_iff_forall_ne_some.2 fun op hop => h ?_
  rw [commandFormats_eq, List.map_map]
  exact List.mem_map.2 ⟨op, op.mem_all, Op.byte_of_ofByte? hop⟩

/-- Check 1: OP names no operation. -/
theorem decode_illegalOp (h : Op.ofByte? (opField c.word) = none) : decode c = .error .illegalOp := by
  simp [decode, h]

/-- Check 2: a reserved bit is set. -/
theorem decode_reservedBits (h : Op.ofByte? (opField c.word) = some op) (hr : c.word &&& op.reserved ≠ 0#64) :
    decode c = .error .reservedBits := by
  simp [decode, h, hr]

theorem wdataMatches_writeCoils :
    WDataMatches Op.writeCoils.byte c ↔ ∃ s, c.wdata = .bits s ∧ wdataFits (capField c.word) s = true := by
  simp only [wdataFits_iff]; rfl

theorem wdataMatches_writeRegs :
    WDataMatches Op.writeRegs.byte c ↔ ∃ s, c.wdata = .regs s ∧ wdataFits (capField c.word) s = true := by
  simp only [wdataFits_iff]; rfl

theorem wdataMatches_none (hb : op ≠ .writeCoils) (hr : op ≠ .writeRegs) :
    WDataMatches op.byte c ↔ c.wdata = .none := by
  have hb' : op.byte ≠ 0x0F#8 := mt (Op.byte_inj (p := .writeCoils)).1 hb
  have hr' : op.byte ≠ 0x10#8 := mt (Op.byte_inj (p := .writeRegs)).1 hr
  rw [WDataMatches, if_neg hb', if_neg hr']

/-- Check 3: WDATA has not the shape and length of the format. -/
theorem assemble_wdataMismatch (h : ¬ WDataMatches op.byte c) : op.assemble c.word c.wdata = .error .wdataMismatch := by
  cases op with
  | readCoils | readDi | readHr | readIr | writeCoil | writeReg | cfgRespTo | cfgTxen | clearExc =>
    exact withoutWData_error.2 ⟨mt (wdataMatches_none (by decide) (by decide)).2 h, rfl⟩
  | writeCoils =>
    rw [wdataMatches_writeCoils] at h
    cases hw : c.wdata with
    | none | regs => rfl
    | bits s => exact if_neg fun hs => h ⟨s, hw, hs⟩
  | writeRegs =>
    rw [wdataMatches_writeRegs] at h
    cases hw : c.wdata with
    | none | bits => rfl
    | regs s => exact if_neg fun hs => h ⟨s, hw, hs⟩
  | cfgLink =>
    rw [wdataMatches_none (by decide) (by decide)] at h
    cases hw : c.wdata with
    | none => exact absurd hw h
    | bits | regs => rfl

/-- Check 4: PARITY of CFG_LINK is 3. -/
theorem assemble_parityReserved (h : WDataMatches Op.cfgLink.byte c) (hp : parityField c.word = 3#2) :
    Op.cfgLink.assemble c.word c.wdata = .error .parityReserved := by
  rw [(wdataMatches_none (by decide) (by decide)).1 h]
  exact if_pos (parityReserved_iff.2 hp)

/-- A word and WDATA that pass the four checks have an instruction. -/
theorem assemble_ok (h : WDataMatches op.byte c) (hp : ¬ (op = .cfgLink ∧ parityField c.word = 3#2)) :
    ∃ i, op.assemble c.word c.wdata = .ok i := by
  cases op with
  | readCoils | readDi | readHr | readIr | writeCoil | writeReg | cfgRespTo | cfgTxen | clearExc =>
    exact ⟨_, withoutWData_ok.2 ⟨(wdataMatches_none (by decide) (by decide)).1 h, rfl⟩⟩
  | writeCoils =>
    obtain ⟨s, hw, hs⟩ := wdataMatches_writeCoils.1 h
    exact ⟨_, assemble_writeCoils_ok.2 ⟨s, hw, hs, rfl⟩⟩
  | writeRegs =>
    obtain ⟨s, hw, hs⟩ := wdataMatches_writeRegs.1 h
    exact ⟨_, assemble_writeRegs_ok.2 ⟨s, hw, hs, rfl⟩⟩
  | cfgLink =>
    have hp' : parityReserved (parityField c.word) = false :=
      Bool.eq_false_iff.2 fun h3 => hp ⟨rfl, parityReserved_iff.1 h3⟩
    exact ⟨_, assemble_cfgLink_ok.2 ⟨(wdataMatches_none (by decide) (by decide)).1 h, hp', rfl⟩⟩

/-- In IDLE, a poll that offers a command which does not decode is refused with its decoding error. -/
theorem step_decode_error {s : State} {i : Input} {rest : List Event} {e : DecodeError} (hs : s.Polls i rest)
    (hf : s.fsm = .idle) (hc : i.cmd = some c) (he : decode c = .error e) : step s = .refused (refusalOf e) := by
  have hf0 : (s.begin rest).fsm = .idle := hf
  rw [step_poll hs.1 hs.2, pollStep_idle i hf0]
  simp only [fsmStep, accept, hf0, hc, he, endStep_refused]

end Checks

/-- Settles O4: the decoder makes the checks in their order, and the step refuses with what it finds. -/
theorem malformedCommandIsRefusedInOrder : Obligations.MalformedCommandIsRefusedInOrder := by
  intro s i rest c hs hf hc
  refine ⟨fun hn => step_decode_error hs hf hc (decode_illegalOp (ofByte?_eq_none hn)), fun f hmem hopf => ?_⟩
  obtain ⟨op, -, rfl⟩ := List.mem_map.1 (commandFormats_eq ▸ hmem)
  have hop : Op.ofByte? (opField c.word) = some op := (congrArg Op.ofByte? hopf).trans (Op.ofByte?_byte op)
  refine ⟨fun hr => ?_, fun hr hw => ?_, fun hr hw hl hp => ?_, fun hr hw hp => ?_⟩
  · exact step_decode_error hs hf hc (decode_reservedBits hop hr)
  · exact step_decode_error hs hf hc ((decode_of_op hop hr).trans (assemble_wdataMismatch hw))
  · obtain rfl : op = .cfgLink := Op.byte_inj.1 hl
    exact step_decode_error hs hf hc ((decode_of_op hop hr).trans (assemble_parityReserved hw hp))
  · rw [decode_of_op hop hr]
    exact assemble_ok hw fun ⟨hl, h3⟩ => hp ⟨congrArg Op.byte hl, h3⟩

/-! ## The assembler

A line is read operand by operand, and an operand that does not fit its field ends it. What the operands must satisfy
for the instruction to be well-formed stands in three facts: no parity letter is 3, no FMT has parity 3, and CAP is the
number of the listed elements. -/

/-- The instruction read from a line, if there is one, is well-formed. -/
def OnlyWellFormed (r : Option Instr) : Prop := ∀ i, r = some i → wellFormed i = true

section Assembler

theorem OnlyWellFormed.none : OnlyWellFormed none := nofun

theorem OnlyWellFormed.some {i : Instr} (h : wellFormed i = true) : OnlyWellFormed (some i) := by
  rintro _ ⟨⟩; exact h

theorem OnlyWellFormed.bind {α : Type} {x : Option α} {k : α → Option Instr}
    (h : ∀ v, x = .some v → OnlyWellFormed (k v)) : OnlyWellFormed (x >>= k) := fun i hi =>
  have ⟨v, hv, hk⟩ := Option.bind_eq_some_iff.1 hi
  h v hv i hk

theorem OnlyWellFormed.ite {p : Prop} [Decidable p] {a b : Option Instr} (ha : OnlyWellFormed a)
    (hb : OnlyWellFormed b) : OnlyWellFormed (if p then a else b) := by
  split
  · exact ha
  · exact hb

theorem field?_toNat {w n : Nat} {v : BitVec w} (h : field? w n = some v) : v.toNat = n := by
  unfold field? at h
  split_ifs at h with hn
  cases h
  rw [BitVec.toNat_ofNat, Nat.mod_eq_of_lt hn]

theorem parity?_not_reserved {cs : List Char} {p : BitVec 2} (h : parity? cs = some p) : parityReserved p = false := by
  unfold parity? at h
  split_ifs at h <;> cases h <;> rfl

theorem format?_not_reserved {cs : List Char} {f : BitVec 2 × Bool} (h : format? cs = some f) :
    parityReserved f.1 = false := by
  unfold format? at h
  split at h
  · split at h
    · next hp _ =>
      obtain ⟨d, -, rfl⟩ := Option.map_eq_some_iff.1 h
      exact parity?_not_reserved hp
    · cases h
  · cases h

theorem length_of_mapM_eq_some {α β : Type} {f : α → Option β} {xs : List α} {ys : List β}
    (h : xs.mapM f = some ys) : ys.length = xs.length := by
  induction xs generalizing ys with
  | nil => cases h; rfl
  | cons x xs ih =>
    simp only [List.mapM_cons, Option.bind_eq_bind, Option.bind_eq_some_iff] at h
    obtain ⟨y, -, ys', hys, h⟩ := h
    cases h
    exact congrArg Nat.succ (ih hys)

theorem wdataFits_of_listed {α : Type} {f : Nat → Option α} {ns : List Nat} {data : List α} {cap : U16}
    (hc : field? 16 ns.length = some cap) (hd : ns.mapM f = some data) : wdataFits cap data = true :=
  wdataFits_iff.2 ((length_of_mapM_eq_some hd).trans (field?_toNat hc).symm)

theorem readLine_wellFormed {mk : Byte → U16 → U16 → U16 → Instr}
    (hmk : ∀ unit addr qty cap, wellFormed (mk unit addr qty cap) = true) (as : List Arg) :
    OnlyWellFormed (readLine mk as) := by
  unfold readLine
  split
  · exact .bind fun _ _ => .bind fun _ _ => .bind fun _ _ => .bind fun _ _ => .some (hmk _ _ _ _)
  · exact .bind fun _ _ => .bind fun _ _ => .bind fun _ _ => .bind fun _ _ => .some (hmk _ _ _ _)
  · exact .none

theorem coilLine_wellFormed (coil : Bool) (as : List Arg) : OnlyWellFormed (coilLine coil as) := by
  unfold coilLine
  split
  · exact .bind fun _ _ => .bind fun _ _ => .some rfl
  · exact .none

theorem lineInstr_wellFormed (m : Mnemonic) (as : List Arg) : OnlyWellFormed (lineInstr m as) := by
  cases m with
  | coilOn | coilOff => exact coilLine_wellFormed _ as
  | op o =>
    cases o with
    | readCoils | readDi | readHr | readIr => exact readLine_wellFormed (fun _ _ _ _ => rfl) as
    | writeCoil =>
      simp only [lineInstr]
      split
      · exact coilLine_wellFormed _ _
      · exact coilLine_wellFormed _ _
      · exact .none
    | writeReg =>
      simp only [lineInstr]
      split
      · exact .bind fun _ _ => .bind fun _ _ => .bind fun _ _ => .some rfl
      · exact .none
    | writeCoils | writeRegs =>
      simp only [lineInstr]
      split
      · exact .bind fun _ _ => .bind fun _ _ => .bind fun _ _ => .bind fun _ hcap => .bind fun _ hdata =>
          .some (wdataFits_of_listed hcap hdata)
      · exact .none
    | cfgLink =>
      simp only [lineInstr]
      split
      · exact .ite .none <| .bind fun _ _ => .bind fun _ hp => .bind fun _ _ =>
          .some (congrArg not (parity?_not_reserved hp))
      · exact .bind fun _ hf => .ite .none <| .bind fun _ _ => .some (congrArg not (format?_not_reserved hf))
      · exact .none
    | cfgRespTo | cfgTxen =>
      simp only [lineInstr]
      split
      · exact .bind fun _ _ => .some rfl
      · exact .none
    | clearExc =>
      simp only [lineInstr]
      split
      · exact .some rfl
      · exact .none

/-- A command the assembler gives is the command of an instruction read from the line. -/
theorem assembleLine_command {line : List Char} {c : Command} (h : assembleLine line = .command c) :
    ∃ m as i, lineInstr m as = some i ∧ encode i = c := by
  unfold assembleLine at h
  split at h
  · cases h
  · split at h
    · split at h
      · next _ _ m as _ _ _ i hi =>
        cases h
        exact ⟨m, as, i, hi, rfl⟩
      · cases h
    · cases h
  · cases h

end Assembler

/-- Settles O5: the assembler encodes a well-formed instruction. -/
theorem assembledLineIsADecodableCommand : Obligations.AssembledLineIsADecodableCommand := by
  intro line c h
  obtain ⟨m, as, i, hi, rfl⟩ := assembleLine_command h
  exact ⟨i, encodedInstructionDecodesToItself i (lineInstr_wellFormed m as i hi), rfl⟩

/-! ## Fixed words and numbers, and the meaning of an ill-formed multiple write -/

/-- Settles O3: the decoder is run on each word. -/
theorem wordsOfTheSpecDecode : Obligations.WordsOfTheSpecDecode := by
  unfold Obligations.WordsOfTheSpecDecode
  decide

/-- Settles O6: the two lists of numbers are computed. -/
theorem statusAndFsmNumbers : Obligations.StatusAndFsmNumbers := by
  unfold Obligations.StatusAndFsmNumbers
  decide

/-- Settles O44: the fit of WDATA to CAP is tested before anything else. -/
theorem multipleWriteWithWrongWDataIsRefused : Obligations.MultipleWriteWithWrongWDataIsRefused := by
  intro s unit addr qty cap bits regs
  exact ⟨fun h => if_neg (mt wdataFits_iff.1 h), fun h => if_neg (mt wdataFits_iff.1 h)⟩

end Sys2Proof.Machine
end

section
/-! SUPPORT. The statements of 40_crc.md about the CRC engine (R166, R167): each of its steps is injective, and the
register cancels against its own bytes. -/

namespace Sys2Proof.Machine

/-! ## The engine is injective in the register and in each byte -/

theorem crcBit_of_bit_set {c : U16} (h : c.getLsbD 0 = true) : crcBit c = (c >>> 1) ^^^ Config.crcPoly :=
  if_pos h

theorem crcBit_of_bit_clear {c : U16} (h : c.getLsbD 0 = false) : crcBit c = c >>> 1 :=
  if_neg (Bool.eq_false_iff.1 h)

/-- The top bit after a bit step is the bit shifted out, as CRC_POLY has bit 15 set and the shift leaves a 0 there. -/
theorem crcBit_getLsbD_15 (c : U16) : (crcBit c).getLsbD 15 = c.getLsbD 0 := by
  cases h : c.getLsbD 0 with
  | true => rw [crcBit_of_bit_set h]; simp [Config.crcPoly]
  | false => rw [crcBit_of_bit_clear h]; simp

/-- A bit step can be undone: its top bit tells which branch was taken, and the branch gives the shifted register. -/
theorem crcBit_injective {c d : U16} (h : crcBit c = crcBit d) : c = d := by
  have h0 : c.getLsbD 0 = d.getLsbD 0 := by rw [← crcBit_getLsbD_15, h, crcBit_getLsbD_15]
  have hs : c >>> 1 = d >>> 1 := by
    cases hd : d.getLsbD 0 with
    | true =>
      rw [crcBit_of_bit_set (h0.trans hd), crcBit_of_bit_set hd] at h
      exact (BitVec.xor_left_inj _).1 h
    | false => rwa [crcBit_of_bit_clear (h0.trans hd), crcBit_of_bit_clear hd] at h
  ext k hk
  cases k with
  | zero => simpa using h0
  | succ k => simpa [Nat.add_comm, BitVec.getLsbD_eq_getElem hk] using congrArg (BitVec.getLsbD · k) hs

theorem crcBits_injective (n : Nat) {c d : U16} (h : crcBits n c = crcBits n d) : c = d := by
  induction n generalizing c d with
  | zero => exact h
  | succ n ih => exact crcBit_injective (ih h)

theorem crcByte_injective_register {c d : U16} {b : Byte} (h : crcByte c b = crcByte d b) : c = d :=
  (BitVec.xor_left_inj _).1 (crcBits_injective 8 h)

theorem crcByte_injective_byte {c : U16} {a b : Byte} (h : crcByte c a = crcByte c b) : a = b := by
  have hw : a.setWidth 16 = b.setWidth 16 := (BitVec.xor_right_inj _).1 (crcBits_injective 8 h)
  simpa using congrArg (BitVec.setWidth 8) hw

theorem crcFrom_injective_register {bs : List Byte} {c d : U16} (h : crcFrom c bs = crcFrom d bs) : c = d := by
  induction bs generalizing c d with
  | nil => exact h
  | cons b bs ih => exact crcByte_injective_register (ih h)

/-- A change of one byte is never lost: the register differs after that byte and stays different. -/
theorem crcFrom_modify_xor_ne {d : Byte} (hd : d ≠ 0#8) {bs : List Byte} {k : Nat} (hk : k < bs.length) (c : U16) :
    crcFrom c (bs.modify k (· ^^^ d)) ≠ crcFrom c bs := by
  induction bs generalizing k c with
  | nil => cases hk
  | cons b bs ih =>
    cases k with
    | zero =>
      intro h
      have hb : b ^^^ d = b := crcByte_injective_byte (crcFrom_injective_register h)
      exact hd ((BitVec.xor_right_inj b).1 (hb.trans BitVec.xor_zero.symm))
    | succ k => exact ih (Nat.lt_of_succ_lt_succ hk) (crcByte c b)

/-! ## The register cancels against its own bytes -/

/-- While the bits shifted out are 0, the bit steps only shift. -/
theorem crcBits_eq_ushiftRight {n : Nat} {c : U16} (h : ∀ k < n, c.getLsbD k = false) : crcBits n c = c >>> n := by
  induction n generalizing c with
  | zero => simp [crcBits]
  | succ n ih =>
    have hc : crcBit c = c >>> 1 := crcBit_of_bit_clear (h 0 n.succ_pos)
    have hlow : ∀ k < n, (c >>> 1).getLsbD k = false := fun k hk => by
      simpa [Nat.add_comm] using h (k + 1) (Nat.succ_lt_succ hk)
    calc crcBits (n + 1) c = crcBits n (c >>> 1) := congrArg (crcBits n) hc
      _ = c >>> 1 >>> n := ih hlow
      _ = c >>> (n + 1) := by rw [Nat.add_comm, BitVec.shiftRight_add]

/-- A byte step whose byte equals the register's low byte moves the high byte down. -/
theorem crcByte_lowByte (c : U16) : crcByte c (c.extractLsb' 0 8) = c >>> 8 := by
  have hlow : ∀ k < 8, (c ^^^ (c.extractLsb' 0 8).setWidth 16).getLsbD k = false := fun k hk => by
    simp [hk, show k < 16 by omega]
  rw [crcByte, crcBits_eq_ushiftRight hlow]
  ext k hk
  simp

/-- From a register, its own two bytes, low byte first, lead to 0. -/
theorem crcFrom_crcBytes_self (c : U16) : crcFrom c (crcBytes c) = 0#16 := by
  have hhigh : c.extractLsb' 8 8 = (c >>> 8).extractLsb' 0 8 := by ext k hk; simp
  calc crcFrom c (crcBytes c) = crcByte (crcByte c (c.extractLsb' 0 8)) (c.extractLsb' 8 8) := rfl
    _ = c >>> 8 >>> 8 := by rw [crcByte_lowByte, hhigh, crcByte_lowByte]
    _ = 0#16 := (BitVec.shiftRight_add c 8 8).symm.trans (BitVec.ushiftRight_eq_zero le_rfl)

theorem crc16_withCrc (bs : List Byte) : crc16 (withCrc bs) = 0#16 := by
  rw [withCrc, crc16, crcFrom_append]
  exact crcFrom_crcBytes_self _

/-- A sequence whose part from position `n` is the CRC of the part before it (R164) has CRC 0. -/
theorem crc16_eq_zero_of_crcTest {bs : List Byte} {n : Nat} (h : bs.drop n = crcBytes (crc16 (bs.take n))) :
    crc16 bs = 0#16 := by
  have hbs : bs = withCrc (bs.take n) := by rw [withCrc, ← h, List.take_append_drop]
  rw [hbs, crc16_withCrc]

/-! ## The obligations -/

/-- Settles O27: the register is XORed with its own low byte, then with its own high byte. -/
theorem crcResidueIsZero : Obligations.CrcResidueIsZero :=
  crc16_withCrc

/-- Settles O28: a sequence that passes has CRC 0, as the unchanged frame has, and one changed byte changes the CRC. -/
theorem changedByteFailsTheCrcTest : Obligations.ChangedByteFailsTheCrcTest := by
  intro s
  constructor
  · rintro bs rfl
    simp [withCrc]
  · rintro k d bs hk hd rfl htest
    have hne : crc16 ((withCrc s).modify k (· ^^^ d)) ≠ crc16 (withCrc s) :=
      crcFrom_modify_xor_ne hd (by simpa using hk) Config.crcInit
    exact hne ((crc16_eq_zero_of_crcTest htest).trans (crc16_withCrc s).symm)

/-- Settles O26: the engine is run on each sequence. -/
theorem crcWorkedValues : Obligations.CrcWorkedValues := by
  unfold Obligations.CrcWorkedValues
  decide +kernel

end Sys2Proof.Machine
end

section
/-! SUPPORT. The statements of 41_timing.md: the thresholds CFG_LINK computes as numbers, their order and their decrease
in the baud rate (R180 to R186), and the modular elapsed time of the timeout tests (R187, R189). -/

namespace Sys2Proof.Machine

/-! ## The two regimes of a threshold -/

theorem bitsPerChar_bounds (parity : BitVec 2) (stop2 : Bool) :
    10 ≤ bitsPerChar parity stop2 ∧ bitsPerChar parity stop2 ≤ 12 := by
  by_cases hp : parity = 0#2 <;> cases stop2 <;> simp [bitsPerChar, hp]

/-- The shape both thresholds share: a quotient up to the split, another quotient above a floor beyond it (R181, R182). -/
def regimes (lo hi floor baud : Nat) : Nat :=
  if baud ≤ Config.baudSplit then lo / baud else hi / baud + floor

theorem charTimeout_eq_regimes (n baud : Nat) : charTimeout n baud = regimes (n * 2500000) (n * 1000000) 750 baud := rfl

theorem frameTimeout_eq_regimes (n baud : Nat) :
    frameTimeout n baud = regimes (n * 4500000) (n * 1000000) 1750 baud := rfl

theorem regimes_of_le {lo hi floor baud : Nat} (h : baud ≤ 19200) : regimes lo hi floor baud = lo / baud :=
  if_pos h

theorem regimes_of_gt {lo hi floor baud : Nat} (h : 19200 < baud) : regimes lo hi floor baud = hi / baud + floor :=
  if_neg (Nat.not_le.2 h)

theorem regimes_le {lo hi floor : Nat} (h : hi ≤ lo) (baud : Nat) : regimes lo hi floor baud ≤ lo + floor := by
  rcases Nat.lt_or_ge 19200 baud with hb | hb
  · rw [regimes_of_gt hb]
    exact Nat.add_le_add_right ((Nat.div_le_self ..).trans h) floor
  · rw [regimes_of_le hb]
    exact Nat.le_add_right_of_le (Nat.div_le_self ..)

/-- Non-increasing within each regime, and over the change of regime when the values at the split are in order. -/
theorem regimes_antitone {lo hi floor baud baud' : Nat} (hsplit : hi / 19200 + floor ≤ lo / 19200) (h0 : 0 < baud)
    (hle : baud ≤ baud') : regimes lo hi floor baud' ≤ regimes lo hi floor baud := by
  rcases Nat.lt_or_ge 19200 baud with hb | hb
  · rw [regimes_of_gt hb, regimes_of_gt (hb.trans_le hle)]
    exact Nat.add_le_add_right (Nat.div_le_div_left hle h0) floor
  · rcases Nat.lt_or_ge 19200 baud' with hb' | hb'
    · calc regimes lo hi floor baud' = hi / baud' + floor := regimes_of_gt hb'
        _ ≤ hi / 19200 + floor := Nat.add_le_add_right (Nat.div_le_div_left hb'.le (by decide)) floor
        _ ≤ lo / 19200 := hsplit
        _ ≤ lo / baud := Nat.div_le_div_left hb h0
        _ = regimes lo hi floor baud := (regimes_of_le hb).symm
    · rw [regimes_of_le hb, regimes_of_le hb']
      exact Nat.div_le_div_left hle h0

/-! ## The two thresholds -/

section Thresholds

variable {n baud baud' : Nat}

theorem charTimeout_pos (hn : 10 ≤ n) (h0 : 0 < baud) : 0 < charTimeout n baud := by
  rw [charTimeout_eq_regimes]
  rcases Nat.lt_or_ge 19200 baud with hb | hb
  · rw [regimes_of_gt hb]
    exact Nat.succ_pos _
  · rw [regimes_of_le hb]
    exact Nat.div_pos (by omega) h0

/-- Below the split the thresholds are at least `n * 2000000 / baud` apart, above it 1000 (R185). -/
theorem charTimeout_lt_frameTimeout (hn : 10 ≤ n) (h0 : 0 < baud) : charTimeout n baud < frameTimeout n baud := by
  rw [charTimeout_eq_regimes, frameTimeout_eq_regimes]
  rcases Nat.lt_or_ge 19200 baud with hb | hb
  · rw [regimes_of_gt hb, regimes_of_gt hb]
    omega
  · have hgap : 0 < n * 2000000 / baud := Nat.div_pos (by omega) h0
    calc regimes (n * 2500000) (n * 1000000) 750 baud = n * 2500000 / baud := regimes_of_le hb
      _ < n * 2500000 / baud + n * 2000000 / baud := Nat.lt_add_of_pos_right hgap
      _ ≤ (n * 2500000 + n * 2000000) / baud := Nat.div_add_div_le_add_div ..
      _ = n * 4500000 / baud := by rw [← Nat.mul_add]
      _ = regimes (n * 4500000) (n * 1000000) 1750 baud := (regimes_of_le hb).symm

/-- The larger threshold fits the register (R183). -/
theorem frameTimeout_lt_two_pow (hn : n ≤ 12) (baud : Nat) : frameTimeout n baud < 2 ^ 32 := by
  have hle := regimes_le (show n * 1000000 ≤ n * 4500000 by omega) (floor := 1750) baud
  rw [frameTimeout_eq_regimes]
  omega

theorem charTimeout_antitone (hn : 10 ≤ n) (h0 : 0 < baud) (hle : baud ≤ baud') :
    charTimeout n baud' ≤ charTimeout n baud := by
  rw [charTimeout_eq_regimes, charTimeout_eq_regimes]
  exact regimes_antitone (by omega) h0 hle

theorem frameTimeout_antitone (hn : 10 ≤ n) (h0 : 0 < baud) (hle : baud ≤ baud') :
    frameTimeout n baud' ≤ frameTimeout n baud := by
  rw [frameTimeout_eq_regimes, frameTimeout_eq_regimes]
  exact regimes_antitone (by omega) h0 hle

end Thresholds

/-! ## CFG_LINK -/

section CfgLink

variable {s t : State} {baud : TimeReg} {parity : BitVec 2} {stop2 : Bool}

theorem exec_cfgLink_next (h : exec (.cfgLink baud parity stop2) s = .next t) :
    baud ≠ 0#32 ∧ t = s.setLink baud parity stop2 := by
  cases exec_cases h with
  | cfgLink b p d hi _ hb => cases hi; exact ⟨hb, rfl⟩
  | cfgRespTo _ hi => cases hi
  | cfgTxen _ hi => cases hi
  | clearExc hi => cases hi
  | invalid _ hi => cases hi
  | accepted _ _ hi => cases hi

/-- The registers hold the computed thresholds as they are: nothing wraps (R183). -/
theorem exec_cfgLink_thresholds (h : exec (.cfgLink baud parity stop2) s = .next t) :
    0 < baud.toNat ∧ ∃ ct ft, t.charTo = some ct ∧ t.frameTo = some ft ∧
      ct.toNat = charTimeout (bitsPerChar parity stop2) baud.toNat ∧
      ft.toNat = frameTimeout (bitsPerChar parity stop2) baud.toNat := by
  obtain ⟨hb, rfl⟩ := exec_cfgLink_next h
  obtain ⟨hlo, hhi⟩ := bitsPerChar_bounds parity stop2
  have h0 : 0 < baud.toNat := Nat.pos_of_ne_zero fun h => hb (BitVec.eq_of_toNat_eq h)
  have hft := frameTimeout_lt_two_pow hhi baud.toNat
  have hct := (charTimeout_lt_frameTimeout hlo h0).trans hft
  exact ⟨h0, _, _, State.setLink_charTo .., State.setLink_frameTo .., Nat.mod_eq_of_lt hct, Nat.mod_eq_of_lt hft⟩

end CfgLink

/-! ## Elapsed time -/

theorem elapsed_toNat (now : Time) (t0 : TimeReg) :
    (elapsed now t0).toNat = (now.toNat + (2 ^ 32 - t0.toNat)) % 2 ^ 32 := by
  rw [Nat.add_comm]
  exact BitVec.toNat_sub now t0

theorem nowAt_toNat (t : Nat) : (nowAt t).toNat = t % 2 ^ 32 :=
  BitVec.toNat_ofNat t 32

/-! ## The obligations -/

/-- Settles O30: the thresholds are stored without wrapping, and the numbers stored are in order in each regime. -/
theorem thresholdsAreOrdered : Obligations.ThresholdsAreOrdered := by
  intro s t baud parity stop2 h
  obtain ⟨h0, ct, ft, hc, hf, hct, hft⟩ := exec_cfgLink_thresholds h
  have hn := (bitsPerChar_bounds parity stop2).1
  refine ⟨ct, ft, hc, hf, BitVec.lt_def.2 ?_, BitVec.lt_def.2 ?_⟩
  · rw [hct]
    exact charTimeout_pos hn h0
  · rw [hct, hft]
    exact charTimeout_lt_frameTimeout hn h0

/-- Settles O31: the thresholds are stored without wrapping, and as numbers they do not increase with the baud rate. -/
theorem thresholdsAreNonIncreasingInBaud : Obligations.ThresholdsAreNonIncreasingInBaud := by
  intro s t t' baud baud' parity stop2 hle h h'
  obtain ⟨h0, ct, ft, hc, hf, hct, hft⟩ := exec_cfgLink_thresholds h
  obtain ⟨-, ct', ft', hc', hf', hct', hft'⟩ := exec_cfgLink_thresholds h'
  have hn := (bitsPerChar_bounds parity stop2).1
  refine ⟨ct, ft, ct', ft', hc, hf, hc', hf', BitVec.le_def.2 ?_, BitVec.le_def.2 ?_⟩
  · rw [hct, hct']
    exact charTimeout_antitone hn h0 (BitVec.le_def.1 hle)
  · rw [hft, hft']
    exact frameTimeout_antitone hn h0 (BitVec.le_def.1 hle)

/-- Settles O32: each test is a comparison with the elapsed time, and that is the difference mod 2^32. -/
theorem timeoutTestsCompareModularElapsedTime : Obligations.TimeoutTestsCompareModularElapsedTime := by
  intro now t0 x
  rw [← elapsed_toNat, respExpired_eq, charGap_eq, frameGap_eq]
  exact ⟨rfl, decide_eq_true_iff, decide_eq_true_iff, decide_eq_true_iff⟩

/-- Settles O33: an interval below 2^32 is its own residue, whichever side of a wrap its ends are on. -/
theorem elapsedIsTheTrueInterval : Obligations.ElapsedIsTheTrueInterval := by
  rintro t t' ⟨hle, hlt⟩
  rw [Config.timeW_eq] at hlt
  rw [elapsed_toNat, nowAt_toNat, nowAt_toNat]
  omega

end Sys2Proof.Machine
end

section
/-! SUPPORT. The statements of 42_framer.md: the accept step of an exchange (R202, R203), the hand-over of the frame
(R204), the flush (R205), and the frames that are sent. -/

namespace Sys2Proof.Machine

/-! ## The accept step -/

section Accept

variable {s : State}

/-- The accept step of a well-formed exchange command is `acceptExchange`, with a check, a latch and request bytes that
do not depend on the state. -/
theorem exec_eq_acceptExchange {ins : Instr} (hx : ins.op.isExchange = true) (hw : wellFormed ins = true) :
    ∃ inv q bs, ∀ s, exec ins s = acceptExchange inv q bs s := by
  cases ins with
  | readCoils | readDi | readHr | readIr | writeCoil | writeReg => exact ⟨_, _, _, fun _ => rfl⟩
  | writeCoils | writeRegs => exact ⟨_, _, _, fun _ => if_pos hw⟩
  | cfgLink | cfgRespTo | cfgTxen | clearExc => cases hx

/-- An accepted exchange has its frame in BUF from index 0, and BUF above the frame as it was. -/
theorem State.accepted_beginExchange (s : State) (q : Req) (bs : List Byte) :
    s.Accepted (s.beginExchange q bs) q bs := by
  constructor
  · simp [State.beginExchange]
  · intro a
    change _ = if a < bs.length + 2 then (withCrc bs)[a]? else _
    simp [Cells.get_store]

/-- On a configured link, operands that pass the check begin the exchange. -/
theorem acceptExchange_accepted (hc : s.cfgValid = true) {inv : Option Status} (hv : inv = none) (q : Req)
    (bs : List Byte) : ∃ t, acceptExchange inv q bs s = .next t ∧ s.Accepted t q bs :=
  ⟨_, acceptExchange_next.2 ⟨hc, .inr ⟨hv, rfl⟩⟩, s.accepted_beginExchange q bs⟩

theorem acceptRead_accepted (hc : s.cfgValid = true) {maxq : Nat} {unit : Byte} {qty cap : U16}
    (hv : validateRead maxq unit qty cap = none) (op : Byte) (addr : U16) :
    ∃ t, acceptRead op maxq unit addr qty cap s = .next t ∧
      s.Accepted t (readReq op unit addr qty) (requestHead unit op addr qty) :=
  acceptExchange_accepted hc hv _ _

theorem acceptSingle_accepted (hc : s.cfgValid = true) {unit : Byte} (hv : validateSingle unit = none) (op : Byte)
    (addr val : U16) :
    ∃ t, acceptSingle op unit addr val s = .next t ∧
      s.Accepted t (singleReq op unit addr val) (requestHead unit op addr val) :=
  acceptExchange_accepted hc hv _ _

end Accept

/-- Settles O36: the configuration is tested before anything else of the accept step. -/
theorem exchangeBeforeCfgLinkIsRefused : Obligations.ExchangeBeforeCfgLinkIsRefused := by
  intro s ins hc hx hw
  obtain ⟨inv, q, bs, he⟩ := exec_eq_acceptExchange hx hw
  rw [he]
  exact acceptExchange_refused.2 ⟨hc, rfl⟩

/-- Settles O37: each read is the shared accept step of a read, with its function code and its limit. -/
theorem acceptedReadLatchesAndFramesTheRequest : Obligations.AcceptedReadLatchesAndFramesTheRequest := by
  intro s unit addr qty cap hc h0 hu h1 hcap p hp hq
  have hv : validateRead p.2.2 unit qty cap = none := validateRead_none.2 ⟨h0, hu, h1, hq, hcap⟩
  simp only [List.mem_cons, List.not_mem_nil, or_false] at hp
  obtain rfl | rfl | rfl | rfl := hp <;> exact acceptRead_accepted hc hv _ addr

/-- The two bytes of a coil value (45_single_writes.md R300). -/
theorem be16_coilValue (coil : Bool) : be16 (coilValue coil) = [if coil then 0xFF#8 else 0x00#8, 0x00#8] := by
  cases coil <;> decide

/-- Settles O39: each single write is the shared accept step of a single write; a coil is written as its wire value. -/
theorem acceptedSingleWriteLatchesAndFramesTheRequest : Obligations.AcceptedSingleWriteLatchesAndFramesTheRequest := by
  intro s unit addr value coil hc hu
  have hv := validateSingle_none.2 hu
  constructor
  · have h := acceptSingle_accepted hc hv 0x05#8 addr (coilValue coil)
    rw [requestHead, be16_coilValue] at h
    exact h
  · exact acceptSingle_accepted hc hv 0x06#8 addr value

/-! ## The two transmit states -/

section Transmit

variable {s : State} {i : Input}

/-- A poll without a command is the action of the FSM state, between the start and the end of a step. -/
theorem State.Polls.step_quiet {rest : List Event} (h : s.Polls i rest) (hc : i.cmd = none) :
    step s = endStep (fsmStep i (s.begin rest)) := by
  rw [step_poll h.1 h.2, pollStep_quiet _ hc]

theorem fsmStep_txWrite (hf : s.fsm = .txWrite) {bs : List Byte} (hb : s.frameBytes = some bs) :
    fsmStep i s = .next (s.sendFrame bs) := by
  simp only [fsmStep, hf, txWriteStep, hb, need_some]

theorem fsmStep_txFlush (hf : s.fsm = .txFlush) : fsmStep i s = txFlushStep i s := by
  simp only [fsmStep, hf]

theorem txFlushStep_waiting (hd : i.txDone = false) : txFlushStep i s = .next s := by
  simp [txFlushStep, hd]

theorem txFlushStep_broadcast (hd : i.txDone = true) (hu : s.req.unit = some 0#8) :
    txFlushStep i s = .next (s.releaseTxen.raise .success) := by
  simp [txFlushStep, hd, hu, isBroadcast]

theorem txFlushStep_unicast (hd : i.txDone = true) {unit : Byte} (hu : s.req.unit = some unit) (h0 : unit ≠ 0#8) :
    txFlushStep i s = .next (s.releaseTxen.startAwait i.now) := by
  simp [txFlushStep, hd, hu, isBroadcast, h0]

end Transmit

/-- Settles O45: the step reads of its input record only that it offers no command. -/
theorem txWriteHandsOverTheFrame : Obligations.TxWriteHandsOverTheFrame := by
  intro s i rest bs hs hf hc hb
  have hf0 : (s.begin rest).fsm = .txWrite := hf
  have hb0 : (s.begin rest).frameBytes = some bs := hb
  rw [hs.step_quiet hc, fsmStep_txWrite hf0 hb0]
  rfl

/-- Settles O46: no flush yet, the flush of a broadcast and the flush of any other exchange. -/
theorem txFlushReleasesTxenAndStartsTheWait : Obligations.TxFlushReleasesTxenAndStartsTheWait := by
  intro s i rest hs hf hc
  have hf0 : (s.begin rest).fsm = .txFlush := hf
  rw [hs.step_quiet hc, fsmStep_txFlush hf0]
  refine ⟨fun hd => ?_, fun hd hu => ?_, fun unit hd hu h0 => ?_⟩
  · exact congrArg endStep (txFlushStep_waiting hd)
  · exact congrArg endStep (txFlushStep_broadcast (s := s.begin rest) hd hu)
  · exact congrArg endStep (txFlushStep_unicast (s := s.begin rest) hd hu h0)

/-! ## The frames that are sent -/

section Sent

variable {s t : State}

theorem ExecCase.out_txWrite {ins : Instr} (he : ExecCase ins s t) : t.out.txWrite = s.out.txWrite := by
  cases he <;> rfl

theorem FrameEnd.out_txWrite (he : FrameEnd s t) : t.out.txWrite = s.out.txWrite := by
  cases he <;> rfl

/-- Only the TX_WRITE step writes O.tx_write, and it hands over the frame bytes of BUF. -/
theorem PollCase.sends {i : Input} (hu : PollCase i s t) :
    t.out.txWrite = s.out.txWrite ∨
      ∃ bs, s.fsm = .txWrite ∧ s.frameBytes = some bs ∧ t = s.sendFrame bs := by
  cases hu with
  | sent bs hf hb => exact .inr ⟨bs, hf, hb, rfl⟩
  | command _ _ _ _ _ _ he => exact .inl he.out_txWrite
  | frameEnd _ _ _ he => exact .inl he.out_txWrite
  | _ => exact .inl rfl

/-- A step that hands a frame to the transport is the TX_WRITE step of a poll. -/
theorem step_sends {bs : List Byte} (h : step s = .next t) (hw : t.out.txWrite = some bs) :
    ∃ rest, s.fsm = .txWrite ∧ s.frameBytes = some bs ∧ t = ((s.begin rest).sendFrame bs).driveTxen := by
  obtain ⟨hr, ⟨rest, -, rfl⟩ | ⟨i, rest, hp, -⟩⟩ := step_next_cases h
  · cases hw
  · obtain ⟨-, u, hu, rfl⟩ := poll_cases hr hp h
    obtain hnone | ⟨bs', hf, hb, rfl⟩ := hu.sends
    · cases hnone.symm.trans hw
    · cases hw
      exact ⟨rest, hf, hb, rfl⟩

end Sent

/-- Settles O17: the frame sent is the request that the invariant says stands in BUF, with its CRC. -/
theorem transmittedFrameIsValid : Obligations.TransmittedFrameIsValid := by
  intro s t bs h ht hw
  obtain ⟨rest, hf, hb, rfl⟩ := step_sends ht hw
  obtain ⟨unit, op, data, hu, ho, hreq, -, h251⟩ := h.request (.inl hf)
  obtain rfl : bs = withCrc (unit :: op :: data) := Option.some.inj (hb.symm.trans hreq)
  refine ⟨hf, rfl, h.txenFollows (.inl hf), ?_, unit, op, data, hu, ho, deframe_withCrc unit op data⟩
  simp only [withCrc_length, List.length_cons]
  omega

end Sys2Proof.Machine
end

section
/-! SUPPORT. The statements of 43_receive.md: the actions of the three receive states (R232 to R236), the end of a frame
(R237, R238), the common checks (R242), the transition relation (R245) and the end of a receive by silence (R246). -/

namespace Sys2Proof.Machine

/-! ## The actions of the receive states -/

section Receive

variable {s t : State} {i : Input}

/-- A poll without a command whose action answers next ends with TXEN driven on the output record. -/
theorem State.Polls.step_next {rest : List Event} (h : s.Polls i rest) (hc : i.cmd = none)
    (hn : fsmStep i (s.begin rest) = .next t) : step s = .next t.driveTxen := by
  rw [h.step_quiet hc, hn, endStep_next]

theorem fsmStep_await (hf : s.fsm = .await) : fsmStep i s = awaitStep i s := by
  simp only [fsmStep, hf]

theorem fsmStep_accum (hf : s.fsm = .accum) : fsmStep i s = accumStep i s := by
  simp only [fsmStep, hf]

theorem fsmStep_confirm (hf : s.fsm = .confirm) : fsmStep i s = confirmStep Config.confirmPolicy i s := by
  simp only [fsmStep, hf]

/-! ### A byte is offered -/

theorem takeByte_stored (hl : s.len < Config.frameCap) (b : Byte) (now : Time) :
    takeByte b now s = .next (s.takeRx.storeRx b now) :=
  takeByte_next.2 (.inr ⟨hl, rfl⟩)

theorem takeByte_overrun (hl : s.len = Config.frameCap) (b : Byte) (now : Time) :
    takeByte b now s = .next (s.takeRx.raise .frameError) :=
  takeByte_next.2 (.inl ⟨hl, rfl⟩)

/-- Where the FSM takes bytes, the action on an offered byte is `take_byte` (R232, R233, R235). -/
theorem fsmStep_takesByte (h : s.TakesByte i) {b : Byte} (hr : i.rx = some b) : fsmStep i s = takeByte b i.now s := by
  obtain hf | hf | ⟨hf, t0, ft, ht, hft, hgap⟩ := h
  · simp [fsmStep_await hf, awaitStep, hr]
  · simp [fsmStep_accum hf, accumStep, hr]
  · simp [fsmStep_confirm hf, Config.confirmPolicy, confirmStep, confirmAppendStep, ht, hft, hgap, hr]

/-- Under either policy a byte at the frame gap ends the exchange and is not consumed (R235, R236). -/
theorem confirmStep_lateByte (policy : Config.ConfirmPolicy) {t0 ft : TimeReg} (ht : s.tLast = some t0)
    (hft : s.frameTo = some ft) (hgap : ft.toNat ≤ (elapsed i.now t0).toNat) {b : Byte} (hr : i.rx = some b) :
    confirmStep policy i s = .next (s.raise .frameError) := by
  cases policy with
  | append => simp [confirmStep, confirmAppendStep, ht, hft, hgap, hr, CommError.status]
  | reject => simp [confirmStep, confirmRejectStep, hr, CommError.status]

theorem confirmStep_reject_byte {b : Byte} (hr : i.rx = some b) :
    confirmStep .reject i s = .next (s.raise .frameError) := by
  simp [confirmStep, confirmRejectStep, hr, CommError.status]

/-! ### No byte is offered -/

theorem awaitStep_quiet (hr : i.rx = none) {t0 : TimeReg} (ht : s.tStart = some t0) :
    awaitStep i s =
      if s.respTo.toNat ≤ (elapsed i.now t0).toNat then .next (s.raise .responseTimeout) else .next s := by
  simp [awaitStep, hr, ht, CommError.status]

theorem accumStep_quiet (hr : i.rx = none) {t0 ct : TimeReg} (ht : s.tLast = some t0) (hct : s.charTo = some ct) :
    accumStep i s = if ct.toNat < (elapsed i.now t0).toNat then .next s.toConfirm else .next s := by
  simp [accumStep, hr, ht, hct]

/-- Without a byte the CONFIRM step is the test of FRAME_TO under either policy (R235, R236). -/
theorem confirmStep_quiet (policy : Config.ConfirmPolicy) (hr : i.rx = none) {t0 ft : TimeReg}
    (ht : s.tLast = some t0) (hft : s.frameTo = some ft) :
    confirmStep policy i s = if ft.toNat ≤ (elapsed i.now t0).toNat then endOfFrame s else .next s := by
  cases policy with
  | append => simp [confirmStep, confirmAppendStep, hr, ht, hft]
  | reject => simp [confirmStep, confirmRejectStep, hr, ht, hft]

end Receive

/-- Settles O48: the byte is taken by `take_byte`, which stores it below FRAME_CAP and overruns at FRAME_CAP. -/
theorem offeredByteIsStoredOrOverruns : Obligations.OfferedByteIsStoredOrOverruns := by
  intro s i rest b hs hc hr htakes
  have htake := fsmStep_takesByte (s := s.begin rest) htakes hr
  refine ⟨fun hl => ?_, fun hl => ?_⟩
  · have hstep := hs.step_next hc (htake.trans (takeByte_stored (s := s.begin rest) hl b i.now))
    exact ⟨_, hstep, fun a => Cells.get_set s.len a b s.buf⟩
  · exact (hs.step_next hc (htake.trans (takeByte_overrun (s := s.begin rest) hl b i.now)) :)

/-- Settles O49: without a byte the AWAIT step is the test of RESP_TO. -/
theorem awaitTimesOutAtRespTo : Obligations.AwaitTimesOutAtRespTo := by
  intro s i rest t0 hs hf hc hr ht
  have hquiet := (fsmStep_await (i := i) (s := s.begin rest) hf).trans (awaitStep_quiet hr ht)
  refine ⟨fun hgap => ?_, fun hgap => ?_⟩
  · exact (hs.step_next hc (hquiet.trans (if_pos hgap)) :)
  · exact (hs.step_next hc (hquiet.trans (if_neg hgap)) :)

/-- Settles O50: without a byte the ACCUM step is the test of CHAR_TO. -/
theorem accumConfirmsAfterCharTo : Obligations.AccumConfirmsAfterCharTo := by
  intro s i rest t0 ct hs hf hc hr ht hct
  have hquiet := (fsmStep_accum (i := i) (s := s.begin rest) hf).trans (accumStep_quiet hr ht hct)
  refine ⟨fun hgap => ?_, fun hgap => ?_⟩
  · exact (hs.step_next hc (hquiet.trans (if_pos hgap)) :)
  · exact (hs.step_next hc (hquiet.trans (if_neg hgap)) :)

/-- Settles O51: the frame gap is tested before the byte, and before the gap a poll without a byte waits. -/
theorem confirmRejectsAByteAtTheFrameGap : Obligations.ConfirmRejectsAByteAtTheFrameGap := by
  intro s i rest t0 ft hs hf hc ht hft
  have hconfirm := fsmStep_confirm (i := i) (s := s.begin rest) hf
  refine ⟨fun b hr hgap => ?_, fun hr hgap => ?_⟩
  · exact (hs.step_next hc (hconfirm.trans (confirmStep_lateByte _ ht hft hgap hr)) :)
  · have hquiet := hconfirm.trans (confirmStep_quiet _ hr ht hft)
    exact (hs.step_next hc (hquiet.trans (if_neg hgap)) :)

/-- Settles O52: the byte is tested before the frame gap. -/
theorem rejectPolicyEndsOnAnyByte : Obligations.RejectPolicyEndsOnAnyByte :=
  fun _ _ => ⟨fun _ hr => confirmStep_reject_byte hr, fun _ _ hr ht hft => confirmStep_quiet .reject hr ht hft⟩

/-! ## The end of a frame -/

section FrameEnd

variable {s t : State} {bs : List Byte}

/-- The poll that ends a response frame is `end_of_frame` (R237). -/
theorem State.AtFrameEnd.step_eq {i : Input} {rest : List Event} (h : s.AtFrameEnd i rest bs) :
    step s = endStep (endOfFrame (s.begin rest)) := by
  obtain ⟨hs, hc, hr, hf, ⟨t0, ft, ht, hft, hgap⟩, -⟩ := h
  rw [hs.step_quiet hc, fsmStep_confirm (s := s.begin rest) hf,
    confirmStep_quiet _ (s := s.begin rest) hr ht hft, if_pos hgap]

theorem State.AtFrameEnd.frameBytes {i : Input} {rest : List Event} (h : s.AtFrameEnd i rest bs) :
    (s.begin rest).frameBytes = some bs := by
  obtain ⟨-, -, -, -, -, hbs⟩ := h
  exact hbs

/-- A frame the deframer rejects ends the exchange with the deframer's error. -/
theorem State.AtFrameEnd.step_deframe_error {i : Input} {rest : List Event} (h : s.AtFrameEnd i rest bs)
    {e : CommError} (he : deframe bs = .error e) : step s = .next (s.endedBy rest e.status) := by
  rw [h.step_eq, endOfFrame_eq h.frameBytes, he]
  rfl

/-- A frame with a good CRC goes to the common checks, with its unit, its function code and its data. -/
theorem State.AtFrameEnd.step_checkResponse {i : Input} {rest : List Event} {u f : Byte} {data : List Byte}
    (h : s.AtFrameEnd i rest (withCrc (u :: f :: data)))
    (hn : checkResponse { unit := u, fc := f, data := data } (s.begin rest) = .next t) :
    step s = .next t.driveTxen := by
  rw [h.step_eq, endOfFrame_eq h.frameBytes, deframe_withCrc]
  exact congrArg endStep hn

theorem deframe_short (h : bs.length < 4) : deframe bs = .error .frameError :=
  if_pos h

theorem deframe_corrupt (h4 : 4 ≤ bs.length)
    (hcrc : bs.drop (bs.length - 2) ≠ crcBytes (crc16 (bs.take (bs.length - 2)))) : deframe bs = .error .crcError :=
  (if_neg (Nat.not_lt.2 h4)).trans (if_pos hcrc)

/-! ### The common checks -/

variable {adu : Adu} {op : Byte}

theorem checkResponse_otherUnit {unit : Byte} (hu : s.req.unit = some unit) (hne : adu.unit ≠ unit) :
    checkResponse adu s = .next (s.raise .unexpectedId) := by
  simp [checkResponse, hu, hne]

theorem checkResponse_exception_empty (hu : s.req.unit = some adu.unit) (ho : s.req.op = some op)
    (hf : adu.fc = op + Config.excFlag) (hd : adu.data = []) :
    checkResponse adu s = .next (s.raise .unexpectedLength) := by
  simp [checkResponse, hu, ho, hf, hd]

theorem checkResponse_exception (hu : s.req.unit = some adu.unit) (ho : s.req.op = some op)
    (hf : adu.fc = op + Config.excFlag) {code : Byte} {more : List Byte} (hd : adu.data = code :: more) :
    checkResponse adu s = .next ((s.captureExc code).raise .exceptionResponse) := by
  simp [checkResponse, hu, ho, hf, hd]

theorem checkResponse_otherFunction (hu : s.req.unit = some adu.unit) (ho : s.req.op = some op)
    (hexc : adu.fc ≠ op + Config.excFlag) (hf : adu.fc ≠ op) :
    checkResponse adu s = .next (s.raise .unexpectedFunctionCode) := by
  simp [checkResponse, hu, ho, hexc, hf]

end FrameEnd

/-- Settles O53: both frames are rejected by the deframer, the short one before its CRC is looked at. -/
theorem shortOrCorruptFrameEndsTheExchange : Obligations.ShortOrCorruptFrameEndsTheExchange := by
  intro s i rest bs h
  refine ⟨fun hshort => ?_, fun h4 hcrc => ?_⟩
  · exact h.step_deframe_error (deframe_short hshort)
  · exact h.step_deframe_error (deframe_corrupt h4 hcrc)

/-- Settles O54: the frame passes the deframer, and each clause is one end of the common checks. -/
theorem commonChecksDecideInOrder : Obligations.CommonChecksDecideInOrder := by
  intro s i rest u f unit op data h hu ho
  refine ⟨fun hne => ?_, ?_, ?_, ?_⟩
  · exact (h.step_checkResponse (checkResponse_otherUnit hu hne) :)
  · rintro rfl hf hd
    exact (h.step_checkResponse (checkResponse_exception_empty hu ho hf hd) :)
  · rintro code more rfl hf hd
    have hexc := checkResponse_exception (adu := ⟨u, f, data⟩) (s := s.begin rest) hu ho hf hd
    exact h.step_checkResponse hexc
  · rintro rfl hexc hf
    exact (h.step_checkResponse (checkResponse_otherFunction hu ho hexc hf) :)

/-! ## The transition relation -/

/-- The rows of the transition relation for CONFIRM_POLICY = APPEND (R245). -/
def Fsm.moves : List (Fsm × Fsm) :=
  [(.idle, .idle), (.idle, .txWrite), (.txWrite, .txFlush), (.txFlush, .txFlush), (.txFlush, .idle),
   (.txFlush, .await), (.await, .accum), (.await, .idle), (.await, .await), (.accum, .idle), (.accum, .accum),
   (.accum, .confirm), (.confirm, .idle), (.confirm, .accum), (.confirm, .confirm)]

section Moves

variable {s t : State} {i : Input}

/-- Every receive state may end the exchange, take a byte and wait. -/
theorem Fsm.receiving.moves {f : Fsm} (h : f.receiving) :
    (f, .idle) ∈ Fsm.moves ∧ (f, .accum) ∈ Fsm.moves ∧ (f, f) ∈ Fsm.moves := by
  rcases h with rfl | rfl | rfl <;> decide

theorem ExecCase.fsm_idle_or_txWrite {ins : Instr} (he : ExecCase ins s t) (hf : s.fsm = .idle) :
    t.fsm = .idle ∨ t.fsm = .txWrite := by
  cases he with
  | accepted => exact .inr rfl
  | invalid => exact .inl rfl
  | cfgLink | cfgRespTo | cfgTxen | clearExc => exact .inl hf

theorem PollCase.moves (hu : PollCase i s t) : (s.fsm, t.fsm) ∈ Fsm.moves := by
  cases hu with
  | quietIdle hf | flushing hf => rw [hf]; decide
  | command _ _ _ hf _ _ he =>
    rcases he.fsm_idle_or_txWrite hf with ht | ht <;> rw [hf, ht] <;> decide
  | sent _ hf | broadcast hf | flushed _ hf | responseTimeout hf | charGap hf | lateByte hf =>
    simp [hf, Fsm.moves]
  | overrun _ hf => exact hf.moves.1
  | byte _ hf => exact hf.moves.2.1
  | waiting hf => exact hf.moves.2.2
  | frameEnd _ hf _ he =>
    obtain ⟨u, st, -, rfl⟩ := he.raises
    simp [hf, Fsm.moves]

/-- A poll that ends in no raise leaves O.done alone and does not bring an exchange in flight to IDLE (R366). -/
theorem PollCase.raises_or_goesOn (hu : PollCase i s t) :
    (∃ (u : State) (st : Status), t = u.raise st) ∨
      (t.out.done = s.out.done ∧ (s.fsm ≠ .idle → t.fsm ≠ .idle)) := by
  cases hu with
  | command _ _ _ hf _ _ he =>
    obtain ⟨hdone, -⟩ | ⟨u, st, -, rfl⟩ := he.keepsStatusOrRaises
    · exact .inr ⟨hdone, fun hne => absurd hf hne⟩
    · exact .inl ⟨u, st, rfl⟩
  | frameEnd _ _ _ he =>
    obtain ⟨u, st, -, rfl⟩ := he.raises
    exact .inl ⟨u, st, rfl⟩
  | broadcast | overrun | responseTimeout | lateByte => exact .inl ⟨_, _, rfl⟩
  | quietIdle | flushing | waiting => exact .inr ⟨rfl, id⟩
  | sent | flushed | byte | charGap => exact .inr ⟨rfl, fun _ => nofun⟩

/-! ### O.rx_take -/

theorem ExecCase.out_rxTake {ins : Instr} (he : ExecCase ins s t) : t.out.rxTake = s.out.rxTake := by
  cases he <;> rfl

theorem FrameEnd.out_rxTake (he : FrameEnd s t) : t.out.rxTake = s.out.rxTake := by
  cases he <;> rfl

/-- Only a receive step with a byte offered writes O.rx_take (R234). -/
theorem PollCase.takes (hu : PollCase i s t) :
    t.out.rxTake = s.out.rxTake ∨ (s.fsm.receiving ∧ i.rx.isSome = true) := by
  cases hu with
  | overrun b hf hr | byte b hf hr => exact .inr ⟨hf, by simp [hr]⟩
  | command _ _ _ _ _ _ he => exact .inl he.out_rxTake
  | frameEnd _ _ _ he => exact .inl he.out_rxTake
  | _ => exact .inl rfl

end Moves

/-- Settles O16, by the cases of a poll: each moves along a row, and only a raise brings an exchange to IDLE or writes
O.done. -/
theorem fsmTransitionsAreClosed : Obligations.FsmTransitionsAreClosed := by
  intro s t i rest ⟨hr, hp⟩ ht
  obtain ⟨-, u, hu, rfl⟩ := poll_cases hr hp ht
  refine ⟨hu.moves, ?_⟩
  obtain ⟨v, st, rfl⟩ | ⟨hdone, hbusy⟩ := hu.raises_or_goesOn
  · exact ⟨fun _ => ⟨fun _ => rfl, fun _ => rfl⟩, fun _ _ => rfl⟩
  · have hdone : u.driveTxen.out.done = false := hdone
    exact ⟨fun hf => ⟨fun hidle => absurd hidle (hbusy hf), fun hd => nomatch hdone.symm.trans hd⟩,
      fun _ hd => nomatch hdone.symm.trans hd⟩

/-- A step that does not take its byte leaves the transport with every byte it held, and what it offered is offered
again (20_memory.md R89, 60_exceptions.md R380). -/
theorem Transport.next_of_not_taken {i : Input} {o : Output} (h : o.rxTake = false) (tr : Transport)
    (arrived : List Byte) (left : Nat) :
    (tr.next i o arrived left).held = tr.held ++ arrived ∧
      ((tr.next i o arrived left).offered = true ↔ i.rx.isSome = true) := by
  simp [Transport.next, h]

/-- Settles O18: a poll starts with O.rx_take false, and only a receive step with a byte offered writes it. -/
theorem byteIsTakenOnlyInAReceive : Obligations.ByteIsTakenOnlyInAReceive := by
  intro s t i rest ⟨hr, hp⟩ ht
  obtain ⟨-, u, hu, rfl⟩ := poll_cases hr hp ht
  obtain hkept | ⟨hf, hrx⟩ := hu.takes
  · have hkept : u.driveTxen.out.rxTake = false := hkept
    exact ⟨fun htake => (nomatch hkept.symm.trans htake), fun _ => Transport.next_of_not_taken hkept⟩
  · exact ⟨fun _ => ⟨hf, hrx⟩, fun hn => absurd hf hn⟩

/-! ## Silence ends a receive

Within the invariant the end of a frame always ends the command: it does not fault (O14), it refuses nothing, and every
next state of it is a raise. -/

section NoRefusal

variable {s : State}

/-- The action answers a next state or a fault. -/
def Result.NoRefusal (r : Result) : Prop := ∀ x, r ≠ .refused x

theorem Result.NoRefusal.next (s : State) : Result.NoRefusal (.next s) := nofun

theorem Result.NoRefusal.fault (f : Fault) : Result.NoRefusal (.fault f) := nofun

theorem Result.NoRefusal.need {α : Type} {r : Option α} {f : Fault} {k : α → Result} (hk : ∀ v, (k v).NoRefusal) :
    (need r f k).NoRefusal := by
  intro x hx
  obtain ⟨v, -, hv⟩ := need_refused.1 hx
  exact hk v x hv

theorem Result.NoRefusal.ite {c : Prop} [Decidable c] {a b : Result} (ha : a.NoRefusal) (hb : b.NoRefusal) :
    Result.NoRefusal (if c then a else b) := by
  split
  · exact ha
  · exact hb

theorem decodeRead_noRefusal (bc : Nat → Nat) (capn : Nat) (unpack : Nat → List Byte → State → State) (adu : Adu) :
    (decodeRead bc capn unpack adu s).NoRefusal := by
  refine .need fun _ => ?_
  dsimp only
  split
  · exact .next _
  · exact .ite (.next _) <| .ite (.next _) <| .ite (.fault _) (.next _)

theorem decodeSingle_noRefusal (adu : Adu) : (decodeSingle adu s).NoRefusal := by
  unfold decodeSingle
  split
  · exact .need fun _ => .ite (.next _) <| .need fun _ => .ite (.next _) (.next _)
  · exact .next _

theorem decodeMulti_noRefusal (adu : Adu) : (decodeMulti adu s).NoRefusal := by
  unfold decodeMulti
  split
  · exact .need fun _ => .ite (.next _) <| .need fun _ => .ite (.next _) (.next _)
  · exact .next _

theorem decodeResponse_noRefusal (op : Byte) (adu : Adu) : (decodeResponse op adu s).NoRefusal := by
  unfold decodeResponse
  cases Op.ofByte? op with
  | none => exact .fault _
  | some o =>
    cases o with
    | readCoils | readDi | readHr | readIr => exact decodeRead_noRefusal _ _ _ adu
    | writeCoil | writeReg => exact decodeSingle_noRefusal adu
    | writeCoils | writeRegs => exact decodeMulti_noRefusal adu
    | cfgLink | cfgRespTo | cfgTxen | clearExc => exact .fault _

theorem checkResponse_noRefusal (adu : Adu) : (checkResponse adu s).NoRefusal := by
  refine .need fun _ => .ite (.next _) <| .need fun op => .ite ?_ <| .ite (.next _) (decodeResponse_noRefusal op adu)
  split <;> exact .next _

theorem endOfFrame_noRefusal (s : State) : (endOfFrame s).NoRefusal := by
  refine .ite (.next _) <| .need fun bs => ?_
  split
  · exact .next _
  · exact checkResponse_noRefusal _

end NoRefusal

section Silence

variable {s : State} {now : Time} {rest : List Event} {t0 ft : TimeReg}

theorem endOfFrame_raises (hq : s.req.Latched) (hb : s.frameBytes.isSome = true) :
    ∃ (u : State) (st : Status), endOfFrame s = .next (u.raise st) := by
  match he : endOfFrame s with
  | .next t =>
    obtain ⟨u, st, -, rfl⟩ := (endOfFrame_cases he).raises
    exact ⟨u, st, rfl⟩
  | .fault f => exact absurd he (endOfFrame_noFault hq hb f)
  | .refused x => exact absurd he (endOfFrame_noRefusal s x)

/-- The thresholds CFG_LINK writes are stored as they are, so CHAR_TO is below FRAME_TO (41_timing.md R183, R185). -/
theorem State.LinkSet.charTo_lt_frameTo (h : s.LinkSet) (hft : s.frameTo = some ft) :
    ∃ ct, s.charTo = some ct ∧ ct.toNat < ft.toNat := by
  obtain ⟨baud, parity, stop2, hbaud, -, -, -, -, -, hct, hft'⟩ := h
  cases hft.symm.trans hft'
  obtain ⟨hlo, hhi⟩ := bitsPerChar_bounds parity stop2
  have h0 : 0 < baud.toNat := Nat.pos_of_ne_zero fun h0 => hbaud (BitVec.eq_of_toNat_eq h0)
  have hlt := charTimeout_lt_frameTimeout hlo h0
  have hfit := frameTimeout_lt_two_pow hhi baud.toNat
  refine ⟨_, hct, ?_⟩
  calc (BitVec.ofNat 32 _).toNat
    _ = charTimeout (bitsPerChar parity stop2) baud.toNat := Nat.mod_eq_of_lt (hlt.trans hfit)
    _ < frameTimeout (bitsPerChar parity stop2) baud.toNat := hlt
    _ = (BitVec.ofNat 32 _).toNat := (Nat.mod_eq_of_lt hfit).symm

theorem State.Inv.polls_quiet (h : s.Inv) (hp : s.pending = quietPoll now :: rest) :
    s.Polls { now := now, rx := none, txDone := false, cmd := none } rest :=
  ⟨h.notRefused, hp⟩

/-- In CONFIRM, a quiet poll at the frame gap ends the command. -/
theorem State.Inv.confirm_ends (h : s.Inv) (hp : s.pending = quietPoll now :: rest) (hf : s.fsm = .confirm)
    (ht : s.tLast = some t0) (hft : s.frameTo = some ft) (hgap : ft.toNat ≤ (elapsed now t0).toNat) :
    ∃ t, step s = .next t ∧ t.fsm = .idle ∧ t.out.done = true ∧ t.status.isSome = true := by
  have hreceiving : s.fsm.receiving := .inr (.inr hf)
  obtain ⟨bs, hbs⟩ := Option.isSome_iff_exists.1 (h.received hreceiving)
  have hend : s.AtFrameEnd _ rest bs := ⟨h.polls_quiet hp, rfl, rfl, hf, ⟨t0, ft, ht, hft, hgap⟩, hbs⟩
  obtain ⟨u, st, hu⟩ := endOfFrame_raises (s := s.begin rest) (h.latched hreceiving.ne_idle) (h.received hreceiving)
  exact ⟨(u.raise st).driveTxen, by rw [hend.step_eq, hu, endStep_next], rfl, rfl, rfl⟩

/-- In ACCUM, a quiet poll at the frame gap is above the character gap and goes to CONFIRM. -/
theorem State.Inv.accum_confirms (h : s.Inv) (hp : s.pending = quietPoll now :: rest) (hf : s.fsm = .accum)
    (ht : s.tLast = some t0) (hft : s.frameTo = some ft) (hgap : ft.toNat ≤ (elapsed now t0).toNat) :
    step s = .next (s.begin rest).toConfirm.driveTxen := by
  have hconf := h.busyConfigured (Fsm.receiving.ne_idle (.inr (.inl hf)))
  obtain ⟨ct, hct, hlt⟩ := (h.linkSet hconf).charTo_lt_frameTo hft
  refine (h.polls_quiet hp).step_next rfl ?_
  rw [fsmStep_accum (s := s.begin rest) hf, accumStep_quiet (s := s.begin rest) rfl ht hct, if_pos (hlt.trans_le hgap)]

end Silence

/-- Settles O24: AWAIT and CONFIRM end in one poll, ACCUM by way of CONFIRM, whose state meets the invariant again. -/
theorem receiveEndsOnSilence : Obligations.ReceiveEndsOnSilence := by
  intro s n1 n2 rest h hp
  refine ⟨fun t0 hf ht hgap => ?_, fun t0 ft hf ht hft hgap1 hgap2 => ?_, fun t0 ft hf ht hft hgap => ?_⟩
  · have hstep := (awaitTimesOutAtRespTo s _ _ t0 (h.polls_quiet hp) hf rfl rfl ht).1 hgap
    exact ⟨_, hstep, rfl, rfl, rfl⟩
  · have hstep := h.accum_confirms hp hf ht hft hgap1
    obtain ⟨u, hu, hidle, hdone, hstatus⟩ :=
      (stepKeepsTheInvariant s _ h hstep).confirm_ends rfl rfl ht hft hgap2
    exact ⟨_, u, hstep, rfl, rfl, hu, hidle, hdone, hstatus⟩
  · exact h.confirm_ends hp hf ht hft hgap

end Sys2Proof.Machine
end

section
/-! SUPPORT. The statements of 44_reads.md: the operand checks of a read (R270), the checks and the unpacking of a read
response (R274 to R278), and a whole register read (R282, R283). -/

namespace Sys2Proof.Machine

/-! ## The accept step -/

/-- The operand checks of a read in the terms of 44_reads.md R270. -/
theorem validateRead_eq (maxq : Nat) (unit : Byte) (qty cap : U16) :
    validateRead maxq unit qty cap =
      if unit = 0#8 ∨ 247 < unit.toNat then some .invalidId
      else if qty = 0#16 ∨ maxq < qty.toNat then some .invalidQuantity
      else if cap.toNat < qty.toNat then some .invalidBuffer
      else none := by
  simp only [validateRead, Bool.or_eq_true, isBroadcast_true, isInvalidUnit_true, isInvalidQuantity_true,
    isInvalidBuffer_true]

section Accept

variable {s : State} {maxq : Nat} {unit : Byte} {qty cap : U16}

/-- On a configured link, operands that fail a check end the read with its status. -/
theorem acceptRead_invalid (hc : s.cfgValid = true) {st : Status} (hv : validateRead maxq unit qty cap = some st)
    (op : Byte) (addr : U16) : acceptRead op maxq unit addr qty cap s = .next (s.raise st) :=
  acceptExchange_next.2 ⟨hc, .inl ⟨st, hv, rfl⟩⟩

/-- On a configured link, operands that pass the checks begin the exchange. -/
theorem acceptRead_begins (hc : s.cfgValid = true) (hv : validateRead maxq unit qty cap = none) (op : Byte)
    (addr : U16) :
    acceptRead op maxq unit addr qty cap s =
      .next (s.beginExchange (readReq op unit addr qty) (requestHead unit op addr qty)) :=
  acceptExchange_next.2 ⟨hc, .inr ⟨hv, rfl⟩⟩

end Accept

/-- Settles O38: the status is that of the shared operand checks, and raising it writes nothing else. -/
theorem invalidReadEndsInItsAcceptStep : Obligations.InvalidReadEndsInItsAcceptStep := by
  intro s unit addr qty cap hc p hp st hst hne
  rw [← validateRead_eq] at hst
  obtain ⟨st, rfl⟩ := Option.ne_none_iff_exists'.1 hne
  simp only [List.mem_cons, List.not_mem_nil, or_false] at hp
  obtain rfl | rfl | rfl | rfl := hp <;> exact acceptRead_invalid hc hst.symm _ addr

/-! ## The output arrays -/

section OutArrays

variable {s t : State}

theorem ExecCase.outArrays {ins : Instr} (he : ExecCase ins s t) : t.outBits = s.outBits ∧ t.outRegs = s.outRegs := by
  cases he <;> exact ⟨rfl, rfl⟩

theorem FrameEnd.outBits (he : FrameEnd s t) :
    t.outBits = s.outBits ∨
      (t.out.done = true ∧ t.status = some .success ∧ (s.req.op = some 0x01#8 ∨ s.req.op = some 0x02#8)) := by
  cases he with
  | bits _ _ _ ho => exact .inr ⟨rfl, rfl, ho⟩
  | plain | exception | regs => exact .inl rfl

theorem FrameEnd.outRegs (he : FrameEnd s t) :
    t.outRegs = s.outRegs ∨
      (t.out.done = true ∧ t.status = some .success ∧ (s.req.op = some 0x03#8 ∨ s.req.op = some 0x04#8)) := by
  cases he with
  | regs _ _ _ ho => exact .inr ⟨rfl, rfl, ho⟩
  | plain | exception | bits => exact .inl rfl

end OutArrays

/-- Settles O21: of all a poll can do only the end of a frame writes an output array, and it does so when it decodes a
good read response of its kind. -/
theorem outArraysAreWrittenOnlyOnReadSuccess : Obligations.OutArraysAreWrittenOnlyOnReadSuccess := by
  intro s t i rest ⟨hr, hp⟩ ht
  obtain ⟨-, u, hu, rfl⟩ := poll_cases hr hp ht
  cases hu with
  | command _ _ _ _ _ _ he => exact he.outArrays.imp .inl .inl
  | frameEnd _ hf _ he => exact ⟨he.outBits.imp_right (.intro hf), he.outRegs.imp_right (.intro hf)⟩
  | _ => exact ⟨.inl rfl, .inl rfl⟩

/-! ## The response decoders -/

section Decode

variable {s t : State} {op : Byte} {qty : U16}

theorem excFlag_ne_zero : Config.excFlag ≠ 0#8 := by decide

/-- A response of the right unit and function code goes to the family decoder (43_receive.md R237). -/
theorem checkResponse_decodes {adu : Adu} (hu : s.req.unit = some adu.unit) (ho : s.req.op = some adu.fc) :
    checkResponse adu s = decodeResponse adu.fc adu s := by
  simp [checkResponse, hu, ho, excFlag_ne_zero]

theorem decodeResponse_bitRead (h : op = 0x01#8 ∨ op = 0x02#8) (adu : Adu) (s : State) :
    decodeResponse op adu s = decodeRead bitByteCount Config.outBitsN State.unpackBits adu s := by
  rcases h with rfl | rfl <;> rfl

theorem decodeResponse_registerRead (h : op = 0x03#8 ∨ op = 0x04#8) (adu : Adu) (s : State) :
    decodeResponse op adu s = decodeRead regByteCount Config.outRegsN State.unpackRegs adu s := by
  rcases h with rfl | rfl <;> rfl

/-- The decoder of a read is the shared one, with the byte count of its kind (44_reads.md R272). -/
theorem decodeResponse_read {bc : Nat}
    (h : (op = 0x01#8 ∨ op = 0x02#8) ∧ bc = (qty.toNat + 7) / 8 ∨
      (op = 0x03#8 ∨ op = 0x04#8) ∧ bc = 2 * qty.toNat) :
    ∃ byteCount capacity unpack, byteCount qty.toNat = bc ∧
      ∀ adu s, decodeResponse op adu s = decodeRead byteCount capacity unpack adu s := by
  obtain ⟨hop, rfl⟩ | ⟨hop, rfl⟩ := h
  · exact ⟨bitByteCount, _, _, bitByteCount_eq _, decodeResponse_bitRead hop⟩
  · exact ⟨regByteCount, _, _, regByteCount_eq _, decodeResponse_registerRead hop⟩

/-! ### The checks of `decode_read` -/

section DecodeRead

variable {byteCount : Nat → Nat} {capacity : Nat} {unpack : Nat → List Byte → State → State} {adu : Adu}

theorem decodeRead_wrongLength (hq : s.req.qty = some qty) (hl : adu.data.length ≠ 1 + byteCount qty.toNat) :
    decodeRead byteCount capacity unpack adu s = .next (s.raise .unexpectedLength) := by
  cases hd : adu.data with
  | nil => simp [decodeRead, hq, hd]
  | cons declared payload =>
    have hp : payload.length ≠ byteCount qty.toNat := fun h => hl (by rw [hd, List.length_cons, h, Nat.add_comm])
    simp [decodeRead, hq, hd, hp]

theorem decodeRead_wrongByteCount (hq : s.req.qty = some qty) {declared : Byte} {payload : List Byte}
    (hd : adu.data = declared :: payload) (hl : payload.length = byteCount qty.toNat)
    (hb : declared.toNat ≠ byteCount qty.toNat) :
    decodeRead byteCount capacity unpack adu s = .next (s.raise .unexpectedByteCount) := by
  simp [decodeRead, hq, hd, hl, hb]

theorem decodeRead_success (hq : s.req.qty = some qty) {declared : Byte} {payload : List Byte}
    (hd : adu.data = declared :: payload) (hl : payload.length = byteCount qty.toNat)
    (hb : declared.toNat = byteCount qty.toNat) (hc : qty.toNat ≤ capacity) :
    decodeRead byteCount capacity unpack adu s = .next ((unpack qty.toNat payload s).raise .success) := by
  simp [decodeRead, hq, hd, hl, hb, hc]

end DecodeRead

/-! ### The poll that decodes -/

section Poll

variable {i : Input} {rest : List Event} {unit : Byte} {data : List Byte} {byteCount : Nat → Nat} {capacity : Nat}
  {unpack : Nat → List Byte → State → State}

/-- A good frame with the unit and the function code of a read ends as the shared decoder of the reads says. -/
theorem State.AtFrameEnd.step_read (h : s.AtFrameEnd i rest (withCrc (unit :: op :: data)))
    (hu : s.req.unit = some unit) (ho : s.req.op = some op)
    (hread : ∀ adu s, decodeResponse op adu s = decodeRead byteCount capacity unpack adu s)
    (hn : decodeRead byteCount capacity unpack { unit := unit, fc := op, data := data } (s.begin rest) = .next t) :
    step s = .next t.driveTxen :=
  h.step_checkResponse <|
    (checkResponse_decodes (adu := ⟨unit, op, data⟩) (s := s.begin rest) hu ho).trans ((hread _ _).trans hn)

/-- A read response that passes both checks is unpacked and ends with SUCCESS. -/
theorem State.AtFrameEnd.step_goodRead {declared : Byte} {payload : List Byte}
    (h : s.AtFrameEnd i rest (withCrc (unit :: op :: declared :: payload)))
    (hu : s.req.unit = some unit) (ho : s.req.op = some op) (hq : s.req.qty = some qty)
    (hread : ∀ adu s, decodeResponse op adu s = decodeRead byteCount capacity unpack adu s)
    (hl : payload.length = byteCount qty.toNat) (hb : declared.toNat = byteCount qty.toNat)
    (hcap : qty.toNat ≤ capacity) :
    step s = .next ((unpack qty.toNat payload (s.begin rest)).raise .success).driveTxen :=
  h.step_read hu ho hread (decodeRead_success (s := s.begin rest) hq rfl hl hb hcap)

end Poll

end Decode

/-- Settles O55: the four reads share one decoder, which checks the length before the byte count. -/
theorem readResponseLengthAndByteCountAreChecked : Obligations.ReadResponseLengthAndByteCountAreChecked := by
  intro s i rest unit op qty data bc h hu ho hq hread
  obtain ⟨byteCount, capacity, unpack, rfl, hdecode⟩ := decodeResponse_read hread
  refine ⟨fun hl => ?_, fun declared payload hd hl hb => ?_⟩
  · exact (h.step_read hu ho hdecode (decodeRead_wrongLength hq hl) :)
  · have hp : payload.length = byteCount qty.toNat := by
      rw [hd, List.length_cons] at hl
      omega
    exact (h.step_read hu ho hdecode (decodeRead_wrongByteCount hq hd hp hb) :)

/-! ## The unpacked elements -/

/-- A read after the first `q` elements of a sequence were written from index 0 up. -/
theorem Cells.get_store_take {α : Type} {q : Nat} {vs : List α} (hq : q ≤ vs.length) (k : Nat) (c : Cells α) :
    Cells.get k (Cells.store 0 (vs.take q) c) = if k < q then vs[k]? else Cells.get k c := by
  have hl : (vs.take q).length = q := by rw [List.length_take, Nat.min_eq_left hq]
  by_cases hk : k < q
  · rw [Cells.get_store_mem (Nat.zero_le k) (by omega), if_pos hk, Nat.sub_zero, List.getElem?_take_of_lt hk]
  · rw [Cells.get_store_of_not_mem (by omega), if_neg hk]

section Unpack

variable {q : Nat} {payload : List Byte}

theorem get_unpackBits_outBits (hl : payload.length = (q + 7) / 8) (k : Nat) (s : State) :
    Cells.get k (s.unpackBits q payload).outBits =
      if k < q then (payload[k / 8]?).map (fun b => b.getLsbD (k % 8)) else Cells.get k s.outBits := by
  have hq : q ≤ (bitsOf payload).length := by rw [bitsOf_length]; omega
  rw [State.unpackBits_outBits, Cells.get_store_take hq, bitsOf_getElem?]

theorem get_unpackRegs_outRegs (hl : payload.length = 2 * q) (k : Nat) (s : State) :
    Cells.get k (s.unpackRegs q payload).outRegs = if k < q then (wordsOf payload)[k]? else Cells.get k s.outRegs := by
  have hq : q ≤ (wordsOf payload).length := by rw [wordsOf_length]; omega
  rw [State.unpackRegs_outRegs, Cells.get_store_take hq]

end Unpack

/-- Settles O56: the response passes both checks, and element `k` of the packed bits is bit `k % 8` of byte `k / 8`. -/
theorem bitReadResponseUnpacksIntoOutBits : Obligations.BitReadResponseUnpacksIntoOutBits := by
  intro s i rest unit op declared qty payload h hu ho hq hop hcap hl hb
  have hstep := h.step_goodRead hu ho hq (decodeResponse_bitRead hop) hl hb hcap
  exact ⟨_, hstep, fun k => get_unpackBits_outBits hl k s⟩

/-- Settles O57: the response passes both checks, and word `k` of the payload is the pair of bytes at `2 * k`. -/
theorem registerReadResponseUnpacksIntoOutRegs : Obligations.RegisterReadResponseUnpacksIntoOutRegs := by
  intro s i rest unit op declared qty payload h hu ho hq hop hcap hl hb
  have hstep := h.step_goodRead hu ho hq (decodeResponse_registerRead hop) hl hb hcap
  refine ⟨_, hstep, fun k hi lo hk h1 h2 => ?_, fun k hk => ?_⟩
  · exact (get_unpackRegs_outRegs hl k s).trans ((if_pos hk).trans (wordsOf_getElem? payload k hi lo h1 h2))
  · exact (get_unpackRegs_outRegs hl k s).trans (if_neg (Nat.not_lt.2 hk))

/-! ## Runs -/

/-- `k` steps, each answering next, lead from one state to another. -/
inductive Runs : Nat → State → State → Prop where
  | refl (s : State) : Runs 0 s s
  | cons {k : Nat} {s t u : State} (h : step s = .next t) (hr : Runs k t u) : Runs (k + 1) s u

theorem Runs.run {k : Nat} {s t : State} (h : Runs k s t) : Host.Core.run Sys2Proof.core k s = .next t := by
  induction h with
  | refl s => rfl
  | @cons k s t u hs _ ih =>
    have hcore : Sys2Proof.core.step s = .next t := hs
    simp only [Host.Core.run.eq_def Sys2Proof.core (k + 1) s, hcore]
    exact ih

theorem Runs.trans {m n : Nat} {s t u : State} (h : Runs m s t) (hr : Runs n t u) : Runs (n + m) s u := by
  induction h with
  | refl s => exact hr
  | cons hs _ ih => exact .cons hs (ih hr)

/-! ## The response wait -/

/-- `t` waits for or receives the response to the request `q` sent from `s`: REQ holds the request, EXC and TXEN are
clear, and the thresholds and the output arrays are those of `s`. -/
structure State.Awaits (s : State) (q : Req) (t : State) : Prop where
  notRefused : t.refused = false
  req : t.req = q
  exc : t.exc = none
  txen : t.txen = false
  charTo : t.charTo = s.charTo
  frameTo : t.frameTo = s.frameTo
  outBits : t.outBits = s.outBits
  outRegs : t.outRegs = s.outRegs

section Exchange

variable {s t : State} {q : Req} {i i1 i2 i3 : Input} {rest : List Event}

/-- In IDLE, a poll that offers the command of an instruction runs its meaning. -/
theorem State.Polls.step_exec {ins : Instr} (h : s.Polls i rest) (hf : s.fsm = .idle)
    (hc : i.cmd = some (encode ins)) (hw : wellFormed ins = true) (hx : exec ins (s.begin rest) = .next t) :
    step s = .next t.driveTxen := by
  have hdecode := encodedInstructionDecodesToItself ins hw
  rw [step_poll h.1 h.2, pollStep_idle i (s := s.begin rest) hf, fsmStep_decoded (s := s.begin rest) hf hc hdecode, hx,
    endStep_next]

/-- The poll that reports the flush of a unicast request begins the response wait (42_framer.md R205). -/
theorem State.Polls.step_flushed {unit : Byte} (h : s.Polls i rest) (hf : s.fsm = .txFlush) (hc : i.cmd = none)
    (hd : i.txDone = true) (hu : s.req.unit = some unit) (h0 : unit ≠ 0#8) :
    step s = .next
      { s with
        pending := rest, txen := false, tStart := some i.now, len := 0, fsm := .await
        out := { rxTake := false, txWrite := none, txen := false, done := false } } :=
  (txFlushReleasesTxenAndStartsTheWait s i rest h hf hc).2.2 unit hd hu h0

/-- Two polls send the frame of a unicast request and begin the response wait (42_framer.md R204, R205). -/
theorem runs_transmit {bs : List Byte} {unit : Byte} (hs : s.Polls i2 (.poll i3 :: rest)) (hf : s.fsm = .txWrite)
    (hb : s.frameBytes = some bs) (hu : s.req.unit = some unit) (h0 : unit ≠ 0#8)
    (hc2 : i2.cmd = none) (hc3 : i3.cmd = none) (hd : i3.txDone = true) :
    Runs 2 s
      { s with
        pending := rest, txen := false, tStart := some i3.now, len := 0, fsm := .await
        out := { rxTake := false, txWrite := none, txen := false, done := false } } := by
  have hwrite := txWriteHandsOverTheFrame s i2 _ bs hs hf hc2 hb
  exact .cons hwrite (.cons (State.Polls.step_flushed ⟨hs.1, rfl⟩ rfl hc3 hd hu h0) (.refl _))

/-- Three polls bring a unicast request from its command to its response wait (42_framer.md R202, R204, R205). -/
theorem runs_request {ins : Instr} {bytes : List Byte} {unit : Byte}
    (hs : s.Polls i1 (.poll i2 :: .poll i3 :: rest)) (hf : s.fsm = .idle) (hc1 : i1.cmd = some (encode ins))
    (hw : wellFormed ins = true) (hx : ∀ t, t.cfgValid = s.cfgValid → exec ins t = .next (t.beginExchange q bytes))
    (hu : q.unit = some unit) (h0 : unit ≠ 0#8)
    (hc2 : i2.cmd = none) (hc3 : i3.cmd = none) (hd : i3.txDone = true) :
    ∃ t, Runs 3 s t ∧ s.Awaits q t ∧ t.fsm = .await ∧ t.len = 0 ∧ t.pending = rest := by
  have haccept := hs.step_exec hf hc1 hw (hx (s.begin (.poll i2 :: .poll i3 :: rest)) rfl)
  have hframe : ((s.begin (.poll i2 :: .poll i3 :: rest)).beginExchange q bytes).driveTxen.frameBytes =
      some (withCrc bytes) := Cells.load_store_self 0 _ s.buf
  exact ⟨_, .cons haccept (runs_transmit ⟨hs.1, rfl⟩ rfl hframe hu h0 hc2 hc3 hd),
    ⟨hs.1, rfl, rfl, rfl, rfl, rfl, rfl, rfl⟩, rfl, rfl, rfl⟩

end Exchange

/-! ## The response -/

/-- In the exchange of `q` begun from `s`, the bytes `bs` are received, the last of them at `tl`, and `rest` is to
come. -/
structure State.Received (s : State) (q : Req) (bs : List Byte) (tl : Time) (rest : List Event) (t : State) : Prop
    extends s.Awaits q t where
  fsm : t.fsm = .accum
  frameBytes : t.frameBytes = some bs
  tLast : t.tLast = some tl
  pending : t.pending = rest

section Response

variable {s t : State} {q : Req} {bs : List Byte} {rest : List Event}

/-- A poll that offers a byte below FRAME_CAP adds it to those received (43_receive.md R232 to R234). -/
theorem State.Awaits.step_byte (h : s.Awaits q t) (hf : t.fsm = .await ∨ t.fsm = .accum)
    (hb : t.frameBytes = some bs) (hl : bs.length < 256) {b : Byte} {now : Time}
    (hp : t.pending = .poll { now := now, rx := some b, txDone := false, cmd := none } :: rest) :
    ∃ u, step t = .next u ∧ s.Received q (bs ++ [b]) now rest u := by
  obtain ⟨hlen, -⟩ := Cells.load_eq_some.1 hb
  have htakes : (t.begin rest).TakesByte { now := now, rx := some b, txDone := false, cmd := none } :=
    hf.imp_right .inl
  have hstore := takeByte_stored (s := t.begin rest) (hlen ▸ hl) b now
  have hpolls : t.Polls _ rest := ⟨h.notRefused, hp⟩
  exact ⟨_, hpolls.step_next rfl ((fsmStep_takesByte htakes rfl).trans hstore),
    { h with fsm := rfl, frameBytes := Cells.load_set_snoc b hb, tLast := rfl, pending := rfl }⟩

/-- The remaining bytes of a response, one a poll at any times (43_receive.md R233, R234). -/
theorem State.Received.runs_bytes {more : List Byte} {times : List Time} {tl : Time}
    (h : s.Received q bs tl (bytePolls more times ++ rest) t) (ht : times.length = more.length)
    (hcap : bs.length + more.length ≤ 256) :
    ∃ u, Runs more.length t u ∧ s.Received q (bs ++ more) (times.getLastD tl) rest u := by
  induction more generalizing t bs times tl with
  | nil =>
    obtain rfl := List.length_eq_zero_iff.1 ht
    exact ⟨t, .refl t, by simpa [bytePolls] using h⟩
  | cons b more ih =>
    obtain ⟨now, times, rfl⟩ := List.exists_cons_of_length_eq_add_one ht
    rw [List.length_cons] at hcap
    obtain ⟨u, hstep, hu⟩ := h.step_byte (.inr h.fsm) h.frameBytes (by omega) h.pending
    obtain ⟨v, hrun, hv⟩ := ih hu (Nat.succ.inj ht) (by rw [List.length_append, List.length_singleton]; omega)
    exact ⟨v, .cons hstep hrun, by rwa [List.append_cons, List.getLastD_cons]⟩

/-- A whole response, from the response wait on. -/
theorem State.Awaits.runs_response {times : List Time} {tl : Time} (h : s.Awaits q t) (hf : t.fsm = .await)
    (hl : t.len = 0) (hp : t.pending = bytePolls bs times ++ rest) (ht : times.length = bs.length)
    (hlast : times.getLast? = some tl) (hcap : bs.length ≤ 256) :
    ∃ u, Runs bs.length t u ∧ s.Received q bs tl rest u := by
  cases times with
  | nil => cases hlast
  | cons now times =>
    obtain ⟨b, bs, rfl⟩ := List.exists_cons_of_length_eq_add_one ht.symm
    have hempty : t.frameBytes = some [] := by rw [State.frameBytes, hl]; rfl
    obtain ⟨u, hstep, hu⟩ := h.step_byte (.inl hf) hempty (by decide) hp
    obtain ⟨v, hrun, hv⟩ := hu.runs_bytes (Nat.succ.inj ht) (by simpa [Nat.add_comm] using hcap)
    rw [List.getLast?_cons, Option.some.injEq, ← List.getLastD_eq_getLast?] at hlast
    exact ⟨v, .cons hstep hrun, hlast ▸ hv⟩

/-- The silence after a response to a register read: the character gap, and the frame gap at which the words are
stored (43_receive.md R233, R235, 44_reads.md R274, R277). -/
theorem State.Received.runs_registerRead {op unit declared : Byte} {addr qty : U16} {payload : List Byte}
    {tl tg te : Time} {ct ft : TimeReg}
    (h : s.Received (readReq op unit addr qty) (withCrc (unit :: op :: declared :: payload)) tl
      (quietPoll tg :: quietPoll te :: rest) t)
    (hct : s.charTo = some ct) (hft : s.frameTo = some ft) (hcgap : ct.toNat < (elapsed tg tl).toNat)
    (hfgap : ft.toNat ≤ (elapsed te tl).toNat) (hop : op = 0x03#8 ∨ op = 0x04#8)
    (hl : payload.length = 2 * qty.toNat) (hb : declared.toNat = 2 * qty.toNat) (hcap : qty.toNat ≤ 125) :
    ∃ u, Runs 2 t u ∧ u.fsm = .idle ∧ u.status = some .success ∧ u.exc = none ∧
      u.out = { rxTake := false, txWrite := none, txen := false, done := true } ∧
      u.outBits = s.outBits ∧ u.pending = rest ∧
      u.outRegs = Cells.store 0 ((wordsOf payload).take qty.toNat) s.outRegs := by
  have hconfirm := (accumConfirmsAfterCharTo t _ _ tl ct ⟨h.notRefused, h.pending⟩ h.fsm rfl rfl h.tLast
    (h.charTo.trans hct)).1 hcgap
  have hend : State.AtFrameEnd
      { t with
        pending := quietPoll te :: rest, fsm := .confirm
        out := { rxTake := false, txWrite := none, txen := t.txen, done := false } } _ rest _ :=
    ⟨⟨h.notRefused, rfl⟩, rfl, rfl, rfl, ⟨tl, ft, h.tLast, h.frameTo.trans hft, hfgap⟩, h.frameBytes⟩
  have hreq {α : Type} (f : Req → α) : f t.req = f (readReq op unit addr qty) := congrArg f h.req
  have hread := hend.step_goodRead (hreq Req.unit) (hreq Req.op) (hreq Req.qty) (decodeResponse_registerRead hop)
    hl hb hcap
  refine ⟨_, .cons hconfirm (.cons hread (.refl _)), rfl, rfl, h.exc, ?_, h.outBits, rfl, ?_⟩
  · exact congrArg (fun txen => { rxTake := false, txWrite := none, txen := txen, done := true : Output }) h.txen
  · exact congrArg (Cells.store 0 _) h.outRegs

end Response

/-- READ_HR and READ_IR are well-formed whatever their operands, and share the accept step of the reads. -/
theorem registerRead_exec {p : (Byte → U16 → U16 → U16 → Instr) × Byte}
    (hp : p ∈ [(Instr.readHr, 0x03#8), (Instr.readIr, 0x04#8)]) (unit : Byte) (addr qty cap : U16) :
    (p.2 = 0x03#8 ∨ p.2 = 0x04#8) ∧ wellFormed (p.1 unit addr qty cap) = true ∧
      ∀ s, exec (p.1 unit addr qty cap) s = acceptRead p.2 Config.maxReadRegs unit addr qty cap s := by
  obtain rfl | rfl := List.mem_pair.1 hp
  · exact ⟨.inl rfl, rfl, fun _ => rfl⟩
  · exact ⟨.inr rfl, rfl, fun _ => rfl⟩

/-- Settles O60: the request is sent, the response of a slave that holds the registers is received and stored, and the
words of its payload are the registers. -/
theorem registerReadExchangeReturnsTheRegisters : Obligations.RegisterReadExchangeReturnsTheRegisters := by
  intro p hp s unit addr cap regs ct ft tl tg te i1 i2 i3 times rest response hr hf hc hct hft h0 hu h1 h125 hcap
    hresp hc1 hc2 hc3 hd htimes hlast hcgap hfgap hpend
  have hqty : (BitVec.ofNat 16 regs.length).toNat = regs.length := by
    rw [BitVec.toNat_ofNat, Nat.mod_eq_of_lt (by omega)]
  have hdeclared : (BitVec.ofNat 8 (2 * regs.length)).toNat = 2 * regs.length := by
    rw [BitVec.toNat_ofNat, Nat.mod_eq_of_lt (by omega)]
  have hvalid : validateRead Config.maxReadRegs unit (BitVec.ofNat 16 regs.length) cap = none :=
    validateRead_none.2 (by rw [hqty]; exact ⟨h0, hu, h1, h125, hcap⟩)
  obtain ⟨hop, hw, hx⟩ := registerRead_exec hp unit addr (BitVec.ofNat 16 regs.length) cap
  obtain ⟨t, hsend, ht, hawait, hlen, htp⟩ := runs_request ⟨hr, hpend⟩ hf hc1 hw
    (fun t hcfg => (hx t).trans (acceptRead_begins (hcfg.trans hc) hvalid p.2 addr)) rfl h0 hc2 hc3 hd
  have hlength : response.length ≤ 256 := by
    rw [hresp, withCrc_length]
    simp only [List.length_cons, flatMap_be16_length]
    omega
  obtain ⟨u, hreceive, hu⟩ := ht.runs_response hawait hlen htp htimes hlast hlength
  rw [hresp] at hu
  obtain ⟨v, hsilence, hidle, hstatus, hexc, hout, hbits, hrest, hregs⟩ :=
    hu.runs_registerRead hct hft hcgap hfgap hop (by rw [flatMap_be16_length, hqty]) (by rw [hdeclared, hqty])
      (by rwa [hqty])
  have hruns : Runs (2 + response.length + 3) s v := hsend.trans (hreceive.trans hsilence)
  have hsteps : 2 + response.length + 3 = response.length + 5 := by omega
  refine ⟨v, (hsteps ▸ hruns).run, hidle, hstatus, hexc, hout, hbits, hrest, fun k => ?_⟩
  rw [hregs, wordsOf_flatMap_be16, hqty, Cells.get_store_take le_rfl]

end Sys2Proof.Machine
end

section
/-! SUPPORT. The statements of 45_single_writes.md: the operand check of a write's unit (R300, R320), a broadcast write
from its command to its flush (R303, R325), and the echo of a single write (R302). -/

namespace Sys2Proof.Machine

/-! ## The accept step of a write -/

section Accept

variable {s : State} {inv : Option Status} {maxq : Nat} {unit : Byte} {addr qty cap : U16}

/-- On a configured link, operands that fail the check end the command with its status. -/
theorem acceptExchange_invalid (hc : s.cfgValid = true) {st : Status} (hv : inv = some st) (q : Req) (bs : List Byte) :
    acceptExchange inv q bs s = .next (s.raise st) :=
  acceptExchange_next.2 ⟨hc, .inl ⟨st, hv, rfl⟩⟩

/-- On a configured link, operands that pass the check begin the exchange. -/
theorem acceptExchange_begins (hc : s.cfgValid = true) (hv : inv = none) (q : Req) (bs : List Byte) :
    acceptExchange inv q bs s = .next (s.beginExchange q bs) :=
  acceptExchange_next.2 ⟨hc, .inr ⟨hv, rfl⟩⟩

theorem validateSingle_invalidUnit (hu : 247 < unit.toNat) : validateSingle unit = some .invalidId :=
  if_pos (isInvalidUnit_true.2 hu)

/-- The unit is checked before the quantity and the capacity. -/
theorem validateMulti_invalidUnit (hu : 247 < unit.toNat) : validateMulti maxq unit qty cap = some .invalidId :=
  if_pos (isInvalidUnit_true.2 hu)

theorem exec_writeCoils_of_length {data : List Bool} (hd : data.length = cap.toNat) :
    exec (.writeCoils unit addr qty cap data) s =
      acceptExchange (validateMulti Config.maxWriteCoils unit qty cap) (multiReq Op.writeCoils.byte unit addr qty)
        (coilsRequest unit Op.writeCoils.byte addr qty data) s :=
  if_pos (wdataFits_iff.2 hd)

theorem exec_writeRegs_of_length {data : List U16} (hd : data.length = cap.toNat) :
    exec (.writeRegs unit addr qty cap data) s =
      acceptExchange (validateMulti Config.maxWriteRegs unit qty cap) (multiReq Op.writeRegs.byte unit addr qty)
        (regsRequest unit Op.writeRegs.byte addr qty data) s :=
  if_pos (wdataFits_iff.2 hd)

end Accept

/-- Settles O40: the four writes check the unit first, and raising INVALID_ID writes nothing else. -/
theorem writeToInvalidUnitEndsInItsAcceptStep : Obligations.WriteToInvalidUnitEndsInItsAcceptStep := by
  intro s unit addr value qty cap coil bits regs hc hu hbits hregs ins hins
  simp only [List.mem_cons, List.not_mem_nil, or_false] at hins
  obtain rfl | rfl | rfl | rfl := hins
  · exact acceptExchange_invalid hc (validateSingle_invalidUnit hu) _ _
  · exact acceptExchange_invalid hc (validateSingle_invalidUnit hu) _ _
  · exact (exec_writeCoils_of_length hbits).trans (acceptExchange_invalid hc (validateMulti_invalidUnit hu) _ _)
  · exact (exec_writeRegs_of_length hregs).trans (acceptExchange_invalid hc (validateMulti_invalidUnit hu) _ _)

/-! ## The writes that begin an exchange -/

/-- On a configured link, the command of `ins` begins the exchange of the request `q` with the request bytes `bs`. -/
structure BeginsExchange (ins : Instr) (q : Req) (bs : List Byte) : Prop where
  wellFormed : wellFormed ins = true
  exec : ∀ s : State, s.cfgValid = true → exec ins s = .next (s.beginExchange q bs)

section Begins

variable {unit : Byte} {qty cap : U16}

theorem writeCoil_beginsExchange (hu : unit.toNat ≤ 247) (addr : U16) (coil : Bool) :
    BeginsExchange (.writeCoil unit addr coil) (singleReq 0x05#8 unit addr (coilValue coil))
      (requestHead unit 0x05#8 addr (coilValue coil)) :=
  ⟨rfl, fun _ hc => acceptExchange_begins hc (validateSingle_none.2 hu) _ _⟩

theorem writeReg_beginsExchange (hu : unit.toNat ≤ 247) (addr value : U16) :
    BeginsExchange (.writeReg unit addr value) (singleReq 0x06#8 unit addr value)
      (requestHead unit 0x06#8 addr value) :=
  ⟨rfl, fun _ hc => acceptExchange_begins hc (validateSingle_none.2 hu) _ _⟩

theorem writeCoils_beginsExchange {data : List Bool} (hu : unit.toNat ≤ 247) (hd : data.length = cap.toNat)
    (h1 : 1 ≤ qty.toNat) (hmax : qty.toNat ≤ 1968) (hcap : qty.toNat ≤ cap.toNat) (addr : U16) :
    BeginsExchange (.writeCoils unit addr qty cap data) (multiReq 0x0F#8 unit addr qty)
      (coilsRequest unit 0x0F#8 addr qty data) where
  wellFormed := wdataFits_iff.2 hd
  exec _ hc := (exec_writeCoils_of_length hd).trans
    (acceptExchange_begins hc (validateMulti_none.2 ⟨hu, h1, hmax, hcap⟩) _ _)

theorem writeRegs_beginsExchange {data : List U16} (hu : unit.toNat ≤ 247) (hd : data.length = cap.toNat)
    (h1 : 1 ≤ qty.toNat) (hmax : qty.toNat ≤ 123) (hcap : qty.toNat ≤ cap.toNat) (addr : U16) :
    BeginsExchange (.writeRegs unit addr qty cap data) (multiReq 0x10#8 unit addr qty)
      (regsRequest unit 0x10#8 addr qty data) where
  wellFormed := wdataFits_iff.2 hd
  exec _ hc := (exec_writeRegs_of_length hd).trans
    (acceptExchange_begins hc (validateMulti_none.2 ⟨hu, h1, hmax, hcap⟩) _ _)

end Begins

section Steps

variable {s : State} {i : Input} {rest : List Event}

/-- The poll that offers the command of such an instruction leaves its frame in BUF[0 .. LEN) (42_framer.md R202,
R203). -/
theorem BeginsExchange.step {ins : Instr} {q : Req} {bs : List Byte} (h : BeginsExchange ins q bs)
    (hs : s.Polls i rest) (hf : s.fsm = .idle) (hc : s.cfgValid = true) (hi : i.cmd = some (encode ins)) :
    step s = .next ((s.begin rest).beginExchange q bs).driveTxen ∧
      ((s.begin rest).beginExchange q bs).driveTxen.frameBytes = some (withCrc bs) :=
  ⟨hs.step_exec hf hi h.wellFormed (h.exec (s.begin rest) hc), Cells.load_store_self 0 _ s.buf⟩

/-- The poll that reports the flush of a broadcast ends the command (42_framer.md R205, 45_single_writes.md R303). -/
theorem State.Polls.step_broadcastFlushed (h : s.Polls i rest) (hf : s.fsm = .txFlush) (hc : i.cmd = none)
    (hd : i.txDone = true) (hu : s.req.unit = some 0#8) :
    step s = .next
      { s with
        pending := rest, txen := false, status := some .success, fsm := .idle
        out := { rxTake := false, txWrite := none, txen := false, done := true } } :=
  (txFlushReleasesTxenAndStartsTheWait s i rest h hf hc).2.1 hd hu

end Steps

/-- Settles O47: each of the four writes begins an exchange whose latch and frame hold unit 0, the next poll hands the
frame over, and the flush of a broadcast ends the command. -/
theorem broadcastWriteEndsAtTheFlush : Obligations.BroadcastWriteEndsAtTheFlush := by
  intro s addr value qty cap coil bits regs ins i1 i2 i3 rest hins hr hf hc hp hc1 hc2 hc3 hd
  obtain ⟨q, bs, hbegins, hunit, hhead⟩ :
      ∃ q bs, BeginsExchange ins q bs ∧ q.unit = some 0#8 ∧ (withCrc bs).head? = some 0#8 := by
    have hu : (0#8).toNat ≤ 247 := by decide
    obtain rfl | rfl | ⟨rfl, hl, h1, hmax, hcap⟩ | ⟨rfl, hl, h1, hmax, hcap⟩ := hins
    · exact ⟨_, _, writeCoil_beginsExchange hu addr coil, rfl, rfl⟩
    · exact ⟨_, _, writeReg_beginsExchange hu addr value, rfl, rfl⟩
    · exact ⟨_, _, writeCoils_beginsExchange hu hl h1 hmax hcap addr, rfl, rfl⟩
    · exact ⟨_, _, writeRegs_beginsExchange hu hl h1 hmax hcap addr, rfl, rfl⟩
  obtain ⟨haccept, hframe⟩ := hbegins.step ⟨hr, hp⟩ hf hc hc1
  have hwrite := txWriteHandsOverTheFrame ((s.begin _).beginExchange q bs).driveTxen i2 _ _ ⟨hr, rfl⟩ rfl hc2 hframe
  exact ⟨_, _, _, _, haccept, rfl, rfl, hwrite, rfl, rfl, hhead,
    State.Polls.step_broadcastFlushed ⟨hr, rfl⟩ rfl hc3 hd hunit, rfl, rfl, rfl, rfl, rfl, rfl, rfl⟩

/-! ## The echo of a single write -/

section Echo

variable {s t : State} {adu : Adu} {op : Byte} {addr val : U16}

theorem decodeResponse_singleWrite (h : op = 0x05#8 ∨ op = 0x06#8) (adu : Adu) (s : State) :
    decodeResponse op adu s = decodeSingle adu s := by
  rcases h with rfl | rfl <;> rfl

theorem decodeSingle_wrongLength (hl : adu.data.length ≠ 4) :
    decodeSingle adu s = .next (s.raise .unexpectedLength) := by
  unfold decodeSingle
  split
  next hd => exact absurd (congrArg List.length hd) hl
  next => rfl

/-- Four data bytes are compared with the address and then with the value of the request. -/
theorem decodeSingle_echo (ha : s.req.addr = some addr) (hv : s.req.val = some val) {a1 a0 v1 v0 : Byte}
    (hd : adu.data = [a1, a0, v1, v0]) :
    decodeSingle adu s = .next (s.raise
      (if ofBe16 a1 a0 ≠ addr then .unexpectedAddress
        else if ofBe16 v1 v0 ≠ val then .unexpectedValue else .success)) := by
  simp only [decodeSingle, hd, ha, hv, need_some]
  split
  · rfl
  · split <;> rfl

/-- A good frame with the unit and the function code of the request ends as the family decoder says (43_receive.md
R237). -/
theorem State.AtFrameEnd.step_decodeResponse {i : Input} {rest : List Event} {unit : Byte} {data : List Byte}
    (h : s.AtFrameEnd i rest (withCrc (unit :: op :: data))) (hu : s.req.unit = some unit) (ho : s.req.op = some op)
    (hn : decodeResponse op { unit := unit, fc := op, data := data } (s.begin rest) = .next t) :
    step s = .next t.driveTxen :=
  h.step_checkResponse ((checkResponse_decodes (adu := ⟨unit, op, data⟩) (s := s.begin rest) hu ho).trans hn)

end Echo

/-- Settles O58: both single writes share one decoder, which checks the length, the address and the value in this
order. -/
theorem singleWriteResponseMustEcho : Obligations.SingleWriteResponseMustEcho := by
  intro s i rest unit op addr val data h hu ho ha hv hop
  have hstep {t : State} (hn : decodeSingle ⟨unit, op, data⟩ (s.begin rest) = .next t) : step s = .next t.driveTxen :=
    h.step_decodeResponse hu ho ((decodeResponse_singleWrite hop _ _).trans hn)
  refine ⟨fun hl => ?_, fun a1 a0 v1 v0 hd => ?_⟩
  · exact hstep (decodeSingle_wrongLength hl)
  · exact hstep (decodeSingle_echo (s := s.begin rest) ha hv hd)

end Sys2Proof.Machine
end

section
/-! SUPPORT. The statements of 46_multiple_writes.md: the operand checks of a multiple write (R320), the layout of its
request data (R322, R323), and the echo of its response (R324). -/

namespace Sys2Proof.Machine

/-! ## The layout of the request data -/

section Layout

variable {j k : Nat}

/-- Element `8 * j + k` of a packed sequence is bit `k` of byte `j`, absent elements being 0 (R322). -/
theorem packBits_getLsbD {n : Nat} {s : List Bool} {byte : Byte} (hj : (packBits n s)[j]? = some byte) (hk : k < 8) :
    byte.getLsbD k = s.getD (8 * j + k) false := by
  have hjn : j < n := by simpa using (List.getElem?_eq_some_iff.1 hj).1
  obtain rfl : packByte (s.drop (8 * j)) = byte := Option.some.inj ((packBits_getElem? n s j hjn).symm.trans hj)
  rw [packByte_getLsbD, decide_eq_true hk, Bool.true_and]
  simp only [List.getD_eq_getElem?_getD, List.getElem?_drop]

/-- Elements at index `q` and above are left out (R322). -/
theorem take_getD_false (q : Nat) (s : List Bool) (k : Nat) :
    (s.take q).getD k false = (decide (k < q) && s.getD k false) := by
  by_cases hk : k < q <;> simp [hk]

/-- Value `k` of a big-endian sequence stands at bytes `2 * k` and `2 * k + 1` (R323). -/
theorem flatMap_be16_getElem? {vs : List U16} {v : U16} (h : vs[k]? = some v) :
    (vs.flatMap be16)[2 * k]? = some (v.extractLsb' 8 8) ∧
      (vs.flatMap be16)[2 * k + 1]? = some (v.extractLsb' 0 8) := by
  induction vs generalizing k with
  | nil => cases h
  | cons w vs ih =>
    cases k with
    | zero =>
      cases h
      exact ⟨rfl, rfl⟩
    | succ k => exact ih h

end Layout

/-! ## The accept step -/

section Accept

variable {maxq : Nat} {unit : Byte} {qty cap : U16}

/-- For a legal unit the quantity is checked before the capacity. -/
theorem validateMulti_invalidQuantity (hu : unit.toNat ≤ 247) (hq : qty = 0#16 ∨ maxq < qty.toNat) :
    validateMulti maxq unit qty cap = some .invalidQuantity := by
  simp [validateMulti, isInvalidUnit_false.2 hu, isInvalidQuantity_true.2 hq]

theorem validateMulti_invalidBuffer (hu : unit.toNat ≤ 247) (hq : ¬ (qty = 0#16 ∨ maxq < qty.toNat))
    (hcap : cap.toNat < qty.toNat) : validateMulti maxq unit qty cap = some .invalidBuffer := by
  have hquantity : isInvalidQuantity maxq qty = false := Bool.eq_false_iff.2 (mt isInvalidQuantity_true.1 hq)
  simp [validateMulti, isInvalidUnit_false.2 hu, hquantity, isInvalidBuffer_true.2 hcap]

/-- On a configured link, a command that begins an exchange is accepted with its request. -/
theorem BeginsExchange.accepted {ins : Instr} {q : Req} {bs : List Byte} (h : BeginsExchange ins q bs) {s : State}
    (hc : s.cfgValid = true) : ∃ t, Machine.exec ins s = .next t ∧ s.Accepted t q bs :=
  ⟨_, h.exec s hc, s.accepted_beginExchange q bs⟩

end Accept

/-- Settles O41: the request data is the packed bytes of the first `qty` elements. -/
theorem acceptedWriteCoilsPacksTheElements : Obligations.AcceptedWriteCoilsPacksTheElements := by
  intro s unit addr qty cap data hc hu h1 hmax hcap hd
  obtain ⟨t, hexec, hacc⟩ := (writeCoils_beginsExchange hu hd h1 hmax hcap addr).accepted hc
  refine ⟨t, packBits (bitByteCount qty.toNat) (data.take qty.toNat), packBits_length _ _, ?_, hexec, hacc⟩
  intro j k byte hj hk
  rw [packBits_getLsbD hj hk, take_getD_false]

/-- Settles O42: the request data is the first `qty` registers, each big-endian. -/
theorem acceptedWriteRegsLaysOutTheRegisters : Obligations.AcceptedWriteRegsLaysOutTheRegisters := by
  intro s unit addr qty cap data hc hu h1 hmax hcap hd
  obtain ⟨t, hexec, hacc⟩ := (writeRegs_beginsExchange hu hd h1 hmax hcap addr).accepted hc
  have hlen : (data.take qty.toNat).length = qty.toNat := List.length_take_of_le (hcap.trans_eq hd.symm)
  refine ⟨t, (data.take qty.toNat).flatMap be16, by rw [flatMap_be16_length, hlen], ?_, hexec, hacc⟩
  intro k v hk hv
  exact flatMap_be16_getElem? ((List.getElem?_take_of_lt hk).trans hv)

/-- Settles O43: both multiple writes share the operand checks, and raising their status writes nothing else. -/
theorem invalidMultipleWriteEndsInItsAcceptStep : Obligations.InvalidMultipleWriteEndsInItsAcceptStep := by
  intro s unit addr qty cap bits regs hc hu hbits hregs p hp
  have hraise {st : Status} (hv : validateMulti p.2 unit qty cap = some st) : exec p.1 s = .next (s.raise st) := by
    obtain rfl | rfl := List.mem_pair.1 hp
    · exact (exec_writeCoils_of_length hbits).trans (acceptExchange_invalid hc hv _ _)
    · exact (exec_writeRegs_of_length hregs).trans (acceptExchange_invalid hc hv _ _)
  refine ⟨fun hq => ?_, fun hq hcap => ?_⟩
  · exact hraise (validateMulti_invalidQuantity hu hq)
  · exact hraise (validateMulti_invalidBuffer hu hq hcap)

/-! ## The echo of a multiple write -/

section Echo

variable {s : State} {adu : Adu} {op : Byte} {addr qty : U16}

theorem decodeResponse_multipleWrite (h : op = 0x0F#8 ∨ op = 0x10#8) (adu : Adu) (s : State) :
    decodeResponse op adu s = decodeMulti adu s := by
  rcases h with rfl | rfl <;> rfl

theorem decodeMulti_wrongLength (hl : adu.data.length ≠ 4) :
    decodeMulti adu s = .next (s.raise .unexpectedLength) := by
  unfold decodeMulti
  split
  next hd => exact absurd (congrArg List.length hd) hl
  next => rfl

/-- Four data bytes are compared with the address and then with the quantity of the request. -/
theorem decodeMulti_echo (ha : s.req.addr = some addr) (hq : s.req.qty = some qty) {a1 a0 q1 q0 : Byte}
    (hd : adu.data = [a1, a0, q1, q0]) :
    decodeMulti adu s = .next (s.raise
      (if ofBe16 a1 a0 ≠ addr then .unexpectedAddress
        else if ofBe16 q1 q0 ≠ qty then .unexpectedQuantity else .success)) := by
  simp only [decodeMulti, hd, ha, hq, need_some]
  split
  · rfl
  · split <;> rfl

end Echo

/-- Settles O59: both multiple writes share one decoder, which checks the length, the address and the quantity in this
order. -/
theorem multipleWriteResponseMustEcho : Obligations.MultipleWriteResponseMustEcho := by
  intro s i rest unit op addr qty data h hu ho ha hq hop
  have hstep {t : State} (hn : decodeMulti ⟨unit, op, data⟩ (s.begin rest) = .next t) : step s = .next t.driveTxen :=
    h.step_decodeResponse hu ho ((decodeResponse_multipleWrite hop _ _).trans hn)
  refine ⟨fun hl => ?_, fun a1 a0 q1 q0 hd => ?_⟩
  · exact hstep (decodeMulti_wrongLength hl)
  · exact hstep (decodeMulti_echo (s := s.begin rest) ha hq hd)

end Sys2Proof.Machine
end

section
/-! SUPPORT. The statements of 47_config.md: what the four configuration commands answer, in every state (R340 to
R343). -/

namespace Sys2Proof.Machine

/-! ## CFG_LINK -/

section CfgLink

variable {baud : TimeReg} {parity : BitVec 2}

/-- Every baud rate but 0 and every legal format is taken (R340). -/
theorem exec_cfgLink_of_legal (hb : baud ≠ 0#32) (hp : parity ≠ 3#2) (stop2 : Bool) (s : State) :
    exec (.cfgLink baud parity stop2) s = .next (s.setLink baud parity stop2) :=
  (if_neg (parityReserved_iff.not.2 hp)).trans (if_neg hb)

/-- The reserved parity is refused at every baud rate, 0 too. -/
theorem exec_cfgLink_parityReserved (hp : parity = 3#2) (baud : TimeReg) (stop2 : Bool) (s : State) :
    exec (.cfgLink baud parity stop2) s = .refused .parityReserved :=
  if_pos (parityReserved_iff.2 hp)

theorem exec_cfgLink_baudZero (hp : parity ≠ 3#2) (stop2 : Bool) (s : State) :
    exec (.cfgLink 0#32 parity stop2) s = .refused .baudZero :=
  (if_neg (parityReserved_iff.not.2 hp)).trans (if_pos rfl)

/-- A start bit, eight data bits and a stop bit, one bit more with a parity and one more with a second stop bit
(R180). -/
theorem bitsPerChar_eq (parity : BitVec 2) (stop2 : Bool) :
    bitsPerChar parity stop2 =
      if parity = 0#2 then (if stop2 then 11 else 10) else (if stop2 then 12 else 11) :=
  ite_not ..

end CfgLink

/-! ## The commands of one register -/

/-- Every RESP_TO is legal (R341). -/
theorem exec_cfgRespTo (resp : TimeReg) (s : State) : exec (.cfgRespTo resp) s = .next (s.setRespTo resp) := rfl

theorem exec_cfgTxen (en : Bool) (s : State) : exec (.cfgTxen en) s = .next (s.setTxenEn en) := rfl

theorem exec_clearExc (s : State) : exec .clearExc s = .next s.clearExc := rfl

/-! ## The obligations -/

/-- Settles O29: a legal CFG_LINK is taken, and the registers hold the two thresholds of R181 and R182 without
wrapping. -/
theorem cfgLinkWritesTheLinkAndThresholds : Obligations.CfgLinkWritesTheLinkAndThresholds := by
  intro s baud parity stop2 hb hp n b
  have hexec := exec_cfgLink_of_legal hb hp stop2 s
  obtain ⟨-, ct, ft, hc, hf, hct, hft⟩ := exec_cfgLink_thresholds hexec
  obtain rfl := Option.some.inj hc
  obtain rfl := Option.some.inj hf
  rw [bitsPerChar_eq] at hct hft
  refine ⟨_, _, hct, hft, ?_⟩
  rw [hexec, State.setLink, bitsPerChar_eq]

/-- Settles O34: the parity is tested before the baud rate. -/
theorem cfgLinkRefusesReservedParityAndZeroBaud : Obligations.CfgLinkRefusesReservedParityAndZeroBaud := by
  intro s baud parity stop2
  exact ⟨exec_cfgLink_parityReserved rfl baud stop2 s, fun hp => exec_cfgLink_baudZero hp stop2 s⟩

/-- Settles O35: each of the three commands answers the update of its one register and makes no test. -/
theorem oneRegisterConfigurationCommandsComplete : Obligations.OneRegisterConfigurationCommandsComplete := by
  intro s resp en
  exact ⟨exec_cfgRespTo resp s, exec_cfgTxen en s, exec_clearExc s⟩

end Sys2Proof.Machine
end

section
/-! SUPPORT. The statements of 60_exceptions.md: the translation of the transport errors and the end of a command (R362,
R366), and the refusals of a step, each with its cause (R371). -/

namespace Sys2Proof.Machine

/-! ## The end of a command -/

/-- Settles O25: the four rows are those of `CommError.status`, and the end of a command is the record update. -/
theorem transportErrorsAreTranslatedAndRaised : Obligations.TransportErrorsAreTranslatedAndRaised := by
  intro s
  refine ⟨fun p hp => ?_, fun st => rfl⟩
  have hrow : p.1.status = p.2 := by
    simp only [List.mem_cons, List.not_mem_nil, or_false] at hp
    obtain rfl | rfl | rfl | rfl := hp <;> rfl
  rw [State.commFail_eq, hrow]

/-! ## No exchange in flight refuses

The actions of the transmit and the receive states answer a next state or a fault, so what a step refuses it refuses for
the command it is offered. -/

section NoRefusal

variable {s : State}

theorem txWriteStep_noRefusal (s : State) : (txWriteStep s).NoRefusal :=
  .need fun _ => .next _

theorem txFlushStep_noRefusal (i : Input) (s : State) : (txFlushStep i s).NoRefusal :=
  .ite (.need fun _ => .ite (.next _) (.next _)) (.next _)

theorem takeByte_noRefusal (b : Byte) (now : Time) (s : State) : (takeByte b now s).NoRefusal :=
  .ite (.next _) <| .ite (.fault _) (.next _)

theorem awaitStep_noRefusal (i : Input) (s : State) : (awaitStep i s).NoRefusal := by
  unfold awaitStep
  split
  · exact takeByte_noRefusal _ _ s
  · exact .need fun _ => .ite (.next _) (.next _)

theorem accumStep_noRefusal (i : Input) (s : State) : (accumStep i s).NoRefusal := by
  unfold accumStep
  split
  · exact takeByte_noRefusal _ _ s
  · exact .need fun _ => .need fun _ => .ite (.next _) (.next _)

theorem confirmAppendStep_noRefusal (i : Input) (s : State) : (confirmAppendStep i s).NoRefusal := by
  refine .need fun _ => .need fun _ => .ite ?_ ?_
  · split
    · exact .next _
    · exact endOfFrame_noRefusal s
  · split
    · exact takeByte_noRefusal _ _ s
    · exact .next _

theorem fsmStep_busy_noRefusal (i : Input) (hf : s.fsm ≠ .idle) : (fsmStep i s).NoRefusal := by
  unfold fsmStep
  cases hs : s.fsm with
  | idle => exact absurd hs hf
  | txWrite => exact txWriteStep_noRefusal s
  | txFlush => exact txFlushStep_noRefusal i s
  | await => exact awaitStep_noRefusal i s
  | accum => exact accumStep_noRefusal i s
  | confirm => exact confirmAppendStep_noRefusal i s

end NoRefusal

/-! ## What a step refuses -/

section Refusals

variable {s : State} {i : Input} {c : Command} {ins : Instr} {r : Refusal}

/-- A well-formed CFG_LINK is refused only for BAUD = 0 (R340), since its parity is not the reserved one. -/
theorem exec_cfgLink_refused {baud : TimeReg} {parity : BitVec 2} {stop2 : Bool}
    (hw : wellFormed (.cfgLink baud parity stop2) = true) (h : exec (.cfgLink baud parity stop2) s = .refused r) :
    baud = 0#32 ∧ r = .baudZero := by
  have hp : parity ≠ 3#2 := by simpa [wellFormed, parityReserved] using hw
  by_cases hb : baud = 0#32
  · subst hb
    cases (exec_cfgLink_baudZero hp stop2 s).symm.trans h
    exact ⟨rfl, rfl⟩
  · cases (exec_cfgLink_of_legal hb hp stop2 s).symm.trans h

/-- A well-formed command is refused only for BAUD = 0 or for the missing CFG_LINK. -/
theorem exec_refused (hw : wellFormed ins = true) (h : exec ins s = .refused r) :
    (∃ parity stop2, ins = .cfgLink 0#32 parity stop2 ∧ r = .baudZero) ∨
      (ins.op.isExchange = true ∧ s.cfgValid = false ∧ r = .notConfigured) := by
  by_cases hx : ins.op.isExchange = true
  · obtain ⟨inv, q, bs, he⟩ := exec_eq_acceptExchange hx hw
    exact .inr ⟨hx, acceptExchange_refused.1 ((he s).symm.trans h)⟩
  · cases ins with
    | cfgLink baud parity stop2 =>
      obtain ⟨rfl, rfl⟩ := exec_cfgLink_refused hw h
      exact .inl ⟨parity, stop2, rfl, rfl⟩
    | cfgRespTo resp => cases (exec_cfgRespTo resp s).symm.trans h
    | cfgTxen en => cases (exec_cfgTxen en s).symm.trans h
    | clearExc => cases (exec_clearExc s).symm.trans h
    | readCoils | readDi | readHr | readIr | writeCoil | writeReg | writeCoils | writeRegs => exact absurd rfl hx

/-- The accept step refuses what does not decode, and what the meaning of the decoded command refuses. -/
theorem accept_refused (h : accept c s = .refused r) :
    (∃ e, decode c = .error e ∧ r = refusalOf e) ∨ (∃ ins, decode c = .ok ins ∧ exec ins s = .refused r) := by
  unfold accept at h
  split at h
  · next e he => cases h; exact .inl ⟨e, he, rfl⟩
  · next ins hd => exact .inr ⟨ins, hd, h⟩

/-- In IDLE, a poll that offers a command accepts it. -/
theorem fsmStep_idle_command (hf : s.fsm = .idle) (hc : i.cmd = some c) : fsmStep i s = accept c s := by
  simp only [fsmStep, hf, hc]

/-- A poll refuses only the command it offers: in a busy state as such, in IDLE by the accept step. -/
theorem pollStep_refused (h : pollStep i s = .refused r) :
    ∃ c, i.cmd = some c ∧
      ((s.fsm ≠ .idle ∧ r = .commandWhileBusy) ∨ (s.fsm = .idle ∧ accept c s = .refused r)) := by
  by_cases hf : s.fsm = .idle
  · rw [pollStep_idle i hf, endStep_eq_refused] at h
    cases hc : i.cmd with
    | none => cases (fsmStep_idle_quiet hf hc).symm.trans h
    | some c => exact ⟨c, rfl, .inr ⟨hf, (fsmStep_idle_command hf hc).symm.trans h⟩⟩
  · cases hc : i.cmd with
    | none =>
      rw [pollStep_quiet s hc, endStep_eq_refused] at h
      exact absurd h (fsmStep_busy_noRefusal i hf r)
    | some c =>
      cases (pollStep_busy (by simp [hc]) hf).symm.trans h
      exact ⟨c, rfl, .inl ⟨hf, rfl⟩⟩

/-- A step that refuses has taken a poll. -/
theorem step_refused_polls (h : step s = .refused r) :
    ∃ i rest, s.Polls i rest ∧ pollStep i (s.begin rest) = .refused r := by
  cases hr : s.refused with
  | true => cases (step_refusedState hr).symm.trans h
  | false =>
    match hp : s.pending with
    | [] => cases (step_noInput hr hp).symm.trans h
    | .reset :: rest => cases (step_reset hr hp).symm.trans h
    | .poll i :: rest => exact ⟨i, rest, ⟨hr, hp⟩, (step_poll hr hp).symm.trans h⟩

end Refusals

/-- Settles O15: a refusal comes from the busy test of a poll, from the decoder or from the meaning of the decoded
command, which is well-formed. -/
theorem refusalReasonsAreClosed : Obligations.RefusalReasonsAreClosed := by
  intro s r h
  obtain ⟨i, rest, hpolls, hpoll⟩ := step_refused_polls h
  obtain ⟨c, hc, ⟨hf, rfl⟩ | ⟨hf, haccept⟩⟩ := pollStep_refused hpoll
  · exact ⟨i, rest, c, hpolls, hc, .inl ⟨hf, rfl⟩⟩
  · refine ⟨i, rest, c, hpolls, hc, .inr ?_⟩
    obtain ⟨e, he, rfl⟩ | ⟨ins, hd, hx⟩ := accept_refused haccept
    · cases e with
      | illegalOp => exact .inl ⟨hf, he, rfl⟩
      | reservedBits => exact .inr (.inl ⟨hf, he, rfl⟩)
      | wdataMismatch => exact .inr (.inr (.inl ⟨hf, he, rfl⟩))
      | parityReserved => exact .inr (.inr (.inr (.inl ⟨hf, he, rfl⟩)))
    · obtain ⟨hw, -⟩ := decodedCommandIsTheEncodingOfItsInstruction c ins hd
      obtain ⟨parity, stop2, rfl, rfl⟩ | ⟨hex, hcfg, rfl⟩ := exec_refused hw hx
      · exact .inr (.inr (.inr (.inr (.inl ⟨hf, ⟨parity, stop2, hd⟩, rfl⟩))))
      · exact .inr (.inr (.inr (.inr (.inr ⟨hf, ⟨ins, hd, hex⟩, hcfg, rfl⟩))))

end Sys2Proof.Machine
end

section
/-! SUPPORT. The statements of 70_reset_and_hazards.md: the reset values (R400), at start and after a reset event. -/

namespace Sys2Proof.Machine

theorem State.reset_atReset : State.reset.AtReset :=
  ⟨rfl, rfl, rfl, rfl, rfl, rfl, rfl, rfl, rfl, rfl, rfl, rfl, rfl, rfl, Cells.get_nil, rfl, rfl, rfl, Cells.get_nil,
    Cells.get_nil, rfl, rfl⟩

/-- A reset event differs from the reset state in REFUSED and in the events still to come, which are no registers of
R400. -/
theorem State.resetEvent_atReset (rest : List Event) (s : State) : (s.resetEvent rest).AtReset :=
  State.reset_atReset

/-- Settles O10: a step that takes a reset event answers the reset state with REFUSED kept. -/
theorem resetGivesTheResetValues : Obligations.ResetGivesTheResetValues := by
  refine ⟨State.reset_atReset, fun s rest hr hp => ?_, fun s rest => ?_⟩
  · exact ⟨s.resetEvent rest, step_reset hr hp, s.resetEvent_atReset rest, s.resetEvent_refused rest, rfl⟩
  · exact ⟨s.resetEvent_atReset rest, s.resetEvent_refused rest⟩

end Sys2Proof.Machine
end
